-- ==== Sys2Proof/Config.lean ====
section
/-! DEFINITION. What a build of the block fixes (00_scope.md rule R7, 70_reset_and_hazards.md rule R122). The spec leaves
no value free that a run can read, so there is no free value here. `NREQ` is open: Machine/Session.lean takes any number
of requesters. -/

namespace Sys2Proof

/-- `XLEN`, the width of the data ports (R7). -/
abbrev xlen : Nat := 64

/-- `CMDLEN`, the width of the command port (R7). -/
abbrev cmdlen : Nat := 4

/-- The configuration, fixed when the block is built: no command changes it and no port shows it (R14, R122). -/
structure Config where
  /-- `EXT_ILSC`: whether the sixth function is implemented (R7, R51). -/
  extIlsc : Bool
  deriving DecidableEq, Repr

/-- This hardware: `EXT_ILSC` = 0 (R7, R90, R122). -/
def Config.thisHardware : Config := { extIlsc := false }

end Sys2Proof
end

