-- ==== Sys2Proof/Word.lean ====
section
/-! DEFINITION. The word type and its plainest arithmetic (00_scope.md rules R3, R5, R6; 40_bit_primitives.md rule R60). -/

namespace Sys2Proof

/-- A word of width `W`: a vector of `W` bits, bit 0 least significant (R3, R6). -/
abbrev Word (W : Nat) := BitVec W

/-- `zero_W`. -/
abbrev Word.zeros (W : Nat) : Word W := 0#W

/-- `ones_W`, the integer -1 (00_scope.md section 6). -/
abbrev Word.ones (W : Nat) : Word W := BitVec.allOnes W

/-- `v +_W 1_W`, modulo 2^W, the carry discarded (R60, R61). -/
def Word.inc {W : Nat} (v : Word W) : Word W := v + 1#W

/-- `v -_W 1_W`, modulo 2^W, the borrow discarded (R60, R62). -/
def Word.dec {W : Nat} (v : Word W) : Word W := v - 1#W

/-- `s(v) = u(v) - 2^W * v[W-1]`, the two's-complement reading (R5). -/
def Word.signedValue {W : Nat} (v : Word W) : Int :=
  (v.toNat : Int) - 2 ^ W * (if v.getLsbD (W - 1) then 1 else 0)

end Sys2Proof
end

