-- ==== Sys2Proof/Syntax.lean ====
section
/-! DEFINITION. The syntax: widths, operations, the twelve instructions of spec/opcode_table.json, requests, responses and
the written form of a request (00_scope.md rule R2, 10_state.md rules R18, R19, 30_encoding.md rules R45 to R54). -/

namespace Sys2Proof

/-- The word width of an operation: 32 or 64, nothing else (R3). -/
inductive Width where
  | w32
  | w64
  deriving DecidableEq, Repr

/-- `W` as a number. -/
abbrev Width.bits : Width → Nat
  | .w32 => 32
  | .w64 => 64

/-- The operation that `op` selects: the five of the core and the sixth of the extension (R2, R47). -/
inductive Operation where
  | clsb
  | slcb
  | ctsb
  | stcb
  | ilcb
  | ilsc
  deriving DecidableEq, Repr

/-- The instructions, one constructor per row of spec/opcode_table.json. A command has no operand field (R48): the operand
is the word on the port `x`. -/
inductive Instr where
  | clsb32
  | slcb32
  | ctsb32
  | stcb32
  | ilcb32
  | ilsc32
  | clsb64
  | slcb64
  | ctsb64
  | stcb64
  | ilcb64
  | ilsc64
  deriving DecidableEq, Repr

/-- The operation of an instruction, its mnemonic's stem (R54). -/
def Instr.operation : Instr → Operation
  | .clsb32 => .clsb
  | .slcb32 => .slcb
  | .ctsb32 => .ctsb
  | .stcb32 => .stcb
  | .ilcb32 => .ilcb
  | .ilsc32 => .ilsc
  | .clsb64 => .clsb
  | .slcb64 => .slcb
  | .ctsb64 => .ctsb
  | .stcb64 => .stcb
  | .ilcb64 => .ilcb
  | .ilsc64 => .ilsc

/-- The width of an instruction, its mnemonic's suffix (R54). -/
def Instr.width : Instr → Width
  | .clsb32 => .w32
  | .slcb32 => .w32
  | .ctsb32 => .w32
  | .stcb32 => .w32
  | .ilcb32 => .w32
  | .ilsc32 => .w32
  | .clsb64 => .w64
  | .slcb64 => .w64
  | .ctsb64 => .w64
  | .stcb64 => .w64
  | .ilcb64 => .w64
  | .ilsc64 => .w64

/-- The instruction of an operation at a width (R47, R49). -/
def Instr.of : Operation → Width → Instr
  | .clsb, .w32 => .clsb32
  | .slcb, .w32 => .slcb32
  | .ctsb, .w32 => .ctsb32
  | .stcb, .w32 => .stcb32
  | .ilcb, .w32 => .ilcb32
  | .ilsc, .w32 => .ilsc32
  | .clsb, .w64 => .clsb64
  | .slcb, .w64 => .slcb64
  | .ctsb, .w64 => .ctsb64
  | .stcb, .w64 => .stcb64
  | .ilcb, .w64 => .ilcb64
  | .ilsc, .w64 => .ilsc64

/-- A request: what the ports `cmd` and `x` carry, taken together (R18, R125). -/
structure Request where
  cmd : BitVec cmdlen
  x   : BitVec xlen
  deriving DecidableEq, Repr

/-- A response: what the ports `ill` and `y` show (R18). Either a result or `IllegalCommand`, never both and never neither
(R104). An illegal command gives `y` no value (R103). -/
inductive Response where
  | result (y : BitVec xlen)   -- `ill` = 0
  | illegal                    -- `ill` = 1, `y` unspecified
  deriving DecidableEq, Repr

/-- A written request `<MNEMONIC> <operand>` after reading: an instruction and a literal (R54). -/
structure Written where
  instr   : Instr
  operand : Nat
  deriving DecidableEq, Repr

end Sys2Proof
end

