-- ==== Sys2Proof/Machine/Functions.lean ====
section
/-! DEFINITION. The six functions of a `W`-bit word, one formula body each for both widths (00_scope.md rule R4,
40_bit_primitives.md rules R66 to R78, 41_ext_ilsc.md rule R91). -/

namespace Sys2Proof.Machine

/-- `clsb_W(v) = v & (v -_W 1_W)` (R66). -/
def clsb {W : Nat} (v : Word W) : Word W := v &&& v.dec

/-- `slcb_W(v) = v | (v +_W 1_W)` (R69). -/
def slcb {W : Nat} (v : Word W) : Word W := v ||| v.inc

/-- `ctsb_W(v) = v & (v +_W 1_W)` (R72). -/
def ctsb {W : Nat} (v : Word W) : Word W := v &&& v.inc

/-- `stcb_W(v) = v | (v -_W 1_W)` (R75). -/
def stcb {W : Nat} (v : Word W) : Word W := v ||| v.dec

/-- `ilcb_W(v) = ~v & (v +_W 1_W)` (R78). -/
def ilcb {W : Nat} (v : Word W) : Word W := ~~~v &&& v.inc

/-- `ilsc_W(v) = ~v | (v -_W 1_W)` (R91), all ones at zero (R94). -/
def ilsc {W : Nat} (v : Word W) : Word W := ~~~v ||| v.dec

/-- `f_W(op, v)` (R19). -/
def applyOperation {W : Nat} (o : Operation) (v : Word W) : Word W :=
  match o with
  | .clsb => clsb v
  | .slcb => slcb v
  | .ctsb => ctsb v
  | .stcb => stcb v
  | .ilcb => ilcb v
  | .ilsc => ilsc v

/-- The cross-checks between instructions at one word (40_bit_primitives.md rule R86, 95_test_vectors.md section 2.4): `slcb`
and `clsb`, and `stcb` and `ctsb`, are each other's complements on the complement, and `ilcb` is what `slcb` adds to the word.
The lowest set bit is given as the glossary's mask `x & -x` (00_scope.md section 8). -/
def dualitiesHold {W : Nat} (v : Word W) : Bool :=
  slcb v == ~~~clsb (~~~v) && stcb v == ~~~ctsb (~~~v) &&
  ilcb v == v ^^^ slcb v && ilcb v == ~~~v &&& slcb v &&
  (v &&& (0#W - v)) == v ^^^ clsb v

end Sys2Proof.Machine
end

