-- ==== Sys2Proof/WellFormed.lean ====
section
/-! DEFINITION. What is well formed: an instruction in a build (30_encoding.md rules R49, R51), a pair of numbers as a
request (00_scope.md rule R9), a written request (30_encoding.md rule R54). -/

namespace Sys2Proof

/-- The operations a build implements: the five of the core always, the sixth with `EXT_ILSC` = 1 (R7, R51). -/
def Operation.builtIn (cfg : Config) : Operation → Bool
  | .clsb => true
  | .slcb => true
  | .ctsb => true
  | .stcb => true
  | .ilcb => true
  | .ilsc => cfg.extIlsc

/-- An instruction of a build: a core instruction, or an extension instruction when the extension is built (R49, R51). -/
def Instr.wf (cfg : Config) (i : Instr) : Bool := i.operation.builtIn cfg

/-- Two numbers make a request only as a pair of a 4-bit and a 64-bit vector (R9). -/
def requestWf (cmd x : Nat) : Bool := decide (cmd < 2 ^ cmdlen) && decide (x < 2 ^ xlen)

/-- The literal of a written request is a value that fits the instruction's width (R54). -/
def Written.wf (l : Written) : Bool := decide (l.operand < 2 ^ l.instr.width.bits)

end Sys2Proof
end

