-- ==== Sys2Proof/Decode.lean ====
section
/-! DEFINITION. The decoder and the encoder of the command (30_encoding.md rules R45 to R53), of a whole request
(rule R54, 00_scope.md rule R9), and the opcode table as rows. -/

namespace Sys2Proof

/-- Why a command is no instruction of the table. -/
inductive DecodeError where
  /-- `op` is 6 or 7: reserved at either width (R50). -/
  | reservedOperation (op : BitVec 3)
  deriving DecidableEq, Repr

/-- `cmd[3]`, the field `w` (R45, R46). -/
def widthField (cmd : BitVec cmdlen) : BitVec 1 := cmd.extractLsb' 3 1

/-- `cmd[2:0]`, the field `op` (R45, R47). -/
def opField (cmd : BitVec cmdlen) : BitVec 3 := cmd.extractLsb' 0 3

/-- `w = 0` is W = 32, `w = 1` is W = 64 (R46). -/
def Width.ofField (w : BitVec 1) : Width := if w = 0#1 then .w32 else .w64

/-- The field `w` of a width (R46). -/
def Width.toField : Width → BitVec 1
  | .w32 => 0#1
  | .w64 => 1#1

/-- The operation of a value of `op` (R47). -/
def Operation.ofField (op : BitVec 3) : Except DecodeError Operation :=
  if op = 0#3 then .ok .clsb
  else if op = 1#3 then .ok .slcb
  else if op = 2#3 then .ok .ctsb
  else if op = 3#3 then .ok .stcb
  else if op = 4#3 then .ok .ilcb
  else if op = 5#3 then .ok .ilsc
  else .error (.reservedOperation op)

/-- The value of `op` of an operation (R47). -/
def Operation.toField : Operation → BitVec 3
  | .clsb => 0#3
  | .slcb => 1#3
  | .ctsb => 2#3
  | .stcb => 3#3
  | .ilcb => 4#3
  | .ilsc => 5#3

/-- The decoder of the whole table, extension rows included. Whether a build implements what it reads is
`Instr.wf` (R51). -/
def decodeCmd (cmd : BitVec cmdlen) : Except DecodeError Instr :=
  match Operation.ofField (opField cmd) with
  | .ok o => .ok (Instr.of o (Width.ofField (widthField cmd)))
  | .error e => .error e

/-- The command of an instruction (R45 to R47). -/
def encodeCmd (i : Instr) : BitVec cmdlen := i.width.toField ++ i.operation.toField

/-- What a value of `cmd` is in a build: exactly one of the three (R49). -/
inductive CommandClass where
  | core (i : Instr)
  | ext (i : Instr)
  | reserved
  deriving DecidableEq, Repr

/-- The class of a command in a build: rule R49's map, with R50 and R51. -/
def classify (cfg : Config) (cmd : BitVec cmdlen) : CommandClass :=
  match decodeCmd cmd with
  | .error _ => .reserved
  | .ok i =>
    if i.operation = .ilsc then (if i.wf cfg then .ext i else .reserved) else .core i

/-- A row of spec/opcode_table.json. -/
structure OpcodeRow where
  pattern   : BitVec cmdlen
  mask      : BitVec cmdlen
  instr     : Instr
  whenBuilt : Bool            -- "implemented_when": "EXT_ILSC = 1"
  deriving DecidableEq, Repr

/-- A command matches a row when it agrees with the pattern under the mask. -/
def OpcodeRow.covers (r : OpcodeRow) (cmd : BitVec cmdlen) : Bool := cmd &&& r.mask == r.pattern

/-- The rows of spec/opcode_table.json, in its order. -/
def opcodeTable : List OpcodeRow :=
  [ ⟨0x0#4, 0xF#4, .clsb32, false⟩,
    ⟨0x1#4, 0xF#4, .slcb32, false⟩,
    ⟨0x2#4, 0xF#4, .ctsb32, false⟩,
    ⟨0x3#4, 0xF#4, .stcb32, false⟩,
    ⟨0x4#4, 0xF#4, .ilcb32, false⟩,
    ⟨0x5#4, 0xF#4, .ilsc32, true⟩,
    ⟨0x8#4, 0xF#4, .clsb64, false⟩,
    ⟨0x9#4, 0xF#4, .slcb64, false⟩,
    ⟨0xA#4, 0xF#4, .ctsb64, false⟩,
    ⟨0xB#4, 0xF#4, .stcb64, false⟩,
    ⟨0xC#4, 0xF#4, .ilcb64, false⟩,
    ⟨0xD#4, 0xF#4, .ilsc64, true⟩ ]

/-- A request from two numbers: none where they are not a 4-bit and a 64-bit value (R9). -/
def requestOfNats (cmd x : Nat) : Option Request :=
  if requestWf cmd x then some { cmd := BitVec.ofNat cmdlen cmd, x := BitVec.ofNat xlen x } else none

/-- The instruction the decoder reads from a command laid out as the host numbers it: bits 3 to 0 are `cmd`, and a word
with a bit above them is no command. -/
def decodeTableWord (_nbits w : Nat) : Option Instr :=
  match requestOfNats w 0 with
  | none => none
  | some r =>
    match decodeCmd r.cmd with
    | .ok i => some i
    | .error _ => none

/-- The request of a written line: the command, and the literal in the low bits of `x`, zeros above (R54). None where the
literal does not fit. -/
def Written.assemble (l : Written) : Option Request :=
  if l.wf then some { cmd := encodeCmd l.instr, x := BitVec.ofNat xlen l.operand } else none

/-- The written line of a request: in 32-bit mode its literal is `x[31:0]` (R20, R54). -/
def Request.disassemble (r : Request) : Except DecodeError Written :=
  match decodeCmd r.cmd with
  | .ok i => .ok { instr := i, operand := r.x.toNat % 2 ^ i.width.bits }
  | .error e => .error e

end Sys2Proof
end

