-- ==== Sys2Proof/Machine/Flags.lean ====
section
/-! DEFINITION. The block has no flags (10_state.md rule R13). The one output bit besides the result is `ill`, which is not
a flag: it belongs to its own transaction and is a function of `cmd` alone (rule R22). -/

namespace Sys2Proof.Machine

/-- Whether `cmd` selects an implemented operation (R22, R50, R51). -/
def commandImplemented (cfg : Config) (cmd : BitVec cmdlen) : Bool :=
  match decodeCmd cmd with
  | .ok i => i.wf cfg
  | .error _ => false

/-- The port `ill` (R22): 1 exactly when `cmd` selects no implemented operation. -/
def illBit (cfg : Config) (cmd : BitVec cmdlen) : BitVec 1 :=
  if commandImplemented cfg cmd then 0#1 else 1#1

end Sys2Proof.Machine
end

