-- ==== Sys2Proof/Machine/Operands.lean ====
section
/-! DEFINITION. Operand selection and result placement (10_state.md rules R20, R21). -/

namespace Sys2Proof.Machine

/-- The operand: `x[31:0]` at W = 32, `x[63:32]` ignored; `x[63:0]` at W = 64 (R20). -/
def selectOperand (w : Width) (x : BitVec xlen) : Word w.bits :=
  match w with
  | .w32 => x.extractLsb' 0 32
  | .w64 => x

/-- The result on `y`: at W = 32 on `y[31:0]` with `y[63:32]` zero, not sign-extended; at W = 64 on `y[63:0]` (R21). -/
def placeResult (w : Width) (v : Word w.bits) : BitVec xlen :=
  match w, v with
  | .w32, v => 0#32 ++ v
  | .w64, v => v

end Sys2Proof.Machine
end

