-- ==== Sys2Proof/Machine/State.lean ====
section
/-! DEFINITION. The state, its value at reset, and the reasons a step can stop. The block itself has no state (10_state.md
rules R10 to R17, R24): `State` holds what its four ports carry (rule R18) and the build's configuration (00_scope.md
rule R7). -/

namespace Sys2Proof.Machine

/-- Why a step faults (60_exceptions.md rule R116: exactly this one). -/
inductive Fault where
  /-- `IllegalCommand` (R102). Raised by `step` on a command with `op` 6 or 7 (R50), and by `ILSC32`, `ILSC64` in a build
  without the extension (R51). The hardware drives `ill` = 1, leaves `y` unspecified and goes on. A model faults there
  (R103). Safe. -/
  | illegalCommand
  deriving DecidableEq, Repr

/-- What the block refuses: exactly a request that is no pair of a 4-bit and a 64-bit vector, and nothing else
(60_exceptions.md rule R116, 00_scope.md rule R9). -/
inductive BlockRefusal where
  /-- The request ports carry no request. Raised by `step` and by every meaning when nobody drives the ports. Safe. -/
  | notARequest
  deriving DecidableEq, Repr

/-- Why a step is refused, in the type the host's interface fixes: R116's refusals, and one placeholder of the host's that no
step and no meaning gives (log entry 12). -/
inductive Refusal where
  /-- A refusal of the block (R116). Raised by `step` and by every meaning. Safe. -/
  | block (r : BlockRefusal)
  /-- The host's placeholder for an instruction whose meaning is not written yet, by its mnemonic (Host/Core.lean). Every
  instruction has its meaning. Raised by nothing. Safe. -/
  | notModelled (mnemonic : String)
  deriving DecidableEq, Repr

/-- What the ports carry, and the configuration. -/
structure State where
  /-- `EXT_ILSC`, fixed when the block is built (R7, R122). No step writes it. -/
  cfg      : Config
  /-- The ports `cmd` and `x`, driven by the requester. `none`: nobody drives a request (R9, R129). -/
  request  : Option Request
  /-- The ports `ill` and `y`. Whenever a request is on the ports they carry `bp` of it (R120): every operation that changes
  the request drives them too (`State.settle`). `none`: nobody drives a request. -/
  response : Option Response
  deriving DecidableEq, Repr

/-- Right after reset: this hardware's configuration, and nothing on the ports. No piece of state has a reset value
(R24, R120). A request that is on the ports through a reset stays answered: `State.systemReset`. -/
def State.reset : State := { cfg := Config.thisHardware, request := none, response := none }

end Sys2Proof.Machine
end

