-- ==== Sys2Proof/Machine/Transaction.lean ====
section
/-! DEFINITION. The block's function `bp` from request to response, line by line as 10_state.md rule R19 writes it. The
machine (Machine/Step.lean) reaches its responses by decoding and dispatch; that the two agree is a claim. -/

namespace Sys2Proof.Machine

/-- `bp(cmd, x)` (R19). -/
def bp (cfg : Config) (cmd : BitVec cmdlen) (x : BitVec xlen) : Response :=
  let w := cmd.getLsbD 3
  let op := cmd.extractLsb' 0 3
  match Operation.ofField op with
  | .error _ => .illegal
  | .ok o =>
    if o.builtIn cfg then
      if w then .result (applyOperation o x)
      else .result (0#32 ++ applyOperation o (x.extractLsb' 0 32))
    else .illegal

end Sys2Proof.Machine
end

