-- ==== Sys2Proof/Machine/Ops.lean ====
section
/-! DEFINITION. The operations on the ports that every instruction shares (10_state.md rules R18, R19, R65), and raising
the one exception (60_exceptions.md rules R102, R106). There is no trap entry and no return from one (rules R106, R107). -/

namespace Sys2Proof.Machine

/-- The port `ill` of a response (R22). -/
def responseIll : Response → BitVec 1
  | .result _ => 0#1
  | .illegal => 1#1

/-- The value of `y`, where the response gives it one (R103). -/
def responseY : Response → Option (BitVec xlen)
  | .result y => some y
  | .illegal => none

/-- The port values the hardware may drive for a response: with `ill` = 1 any 64 bits on `y` (R103). -/
def responseAllows (p : Response) (ill : BitVec 1) (y : BitVec xlen) : Bool :=
  match p with
  | .result v => ill == 0#1 && y == v
  | .illegal => ill == 1#1

/-- The response ports follow the request ports with no storage between (R120, R124): while a request is on the ports they
carry `bp` of it. -/
def State.settle (s : State) : State := { s with response := s.request.map (fun r => bp s.cfg r.cmd r.x) }

/-- The requester puts a whole request on the ports (R125), and the response ports carry `bp` of it at once (R120). -/
def State.present (s : State) (r : Request) : State := State.settle { s with request := some r }

/-- Nobody drives the request ports (R9, R129). -/
def State.idle (s : State) : State := State.settle { s with request := none }

/-- A reset of the enclosing system, or its power applied again: the block has no reset input and nothing to set, and the
response ports carry `bp` of the request ports after it as before (R24, R114, R120). -/
def State.systemReset (s : State) : State := s.settle

/-- The block drives the response ports. The request stays on its ports while the response is read (R125). -/
def State.respond (s : State) (p : Response) : State := { s with response := some p }

/-- The outcome of a transaction with exactly the fault and the refusal of rule R116. What all instructions share is written
at this type, so no other reason can come from it. -/
abbrev BlockOutcome := Host.Outcome State Fault BlockRefusal

/-- An outcome of the block in the types the host's interface fixes. -/
def hostOutcome : BlockOutcome → Host.Outcome State Fault Refusal
  | .next s => .next s
  | .fault e => .fault e
  | .refused r => .refused (.block r)

/-- `raise IllegalCommand`: it saves nothing and changes nothing (R102, R106). The transaction is a fault of the model,
which gives `y` no value (R103, R116). -/
def raiseIllegalCommand (_s : State) : BlockOutcome := .fault .illegalCommand

/-- What all instructions share (R19, R65): the operation, if the build implements it, is applied to the operand at the
width, and the result is placed on `y` with `ill` = 0. -/
def transact (o : Operation) (w : Width) (f : Word w.bits → Word w.bits) (s : State) : BlockOutcome :=
  match s.request with
  | none => .refused .notARequest
  | some r =>
    if o.builtIn s.cfg then .next (s.respond (.result (placeResult w (f (selectOperand w r.x)))))
    else raiseIllegalCommand s

end Sys2Proof.Machine
end

