-- ==== Sys2Proof/Machine/BitPrimitives.lean ====
section
/-! DEFINITION. The ten core instructions (40_bit_primitives.md rules R67 to R80). Each is total on every operand, writes no
flag and raises nothing (rule R65). -/

namespace Sys2Proof.Machine

/-- `CLSB32`: `clearLowestSetBit` on a 32-bit word (R67). -/
def execClsb32 (s : State) : Host.Outcome State Fault Refusal :=
  hostOutcome (transact .clsb .w32 clsb s)

/-- `CLSB64`: `clearLowestSetBit` on a 64-bit word (R68). -/
def execClsb64 (s : State) : Host.Outcome State Fault Refusal :=
  hostOutcome (transact .clsb .w64 clsb s)

/-- `SLCB32`: `setLowestClearBit` on a 32-bit word (R70). -/
def execSlcb32 (s : State) : Host.Outcome State Fault Refusal :=
  hostOutcome (transact .slcb .w32 slcb s)

/-- `SLCB64`: `setLowestClearBit` on a 64-bit word (R71). -/
def execSlcb64 (s : State) : Host.Outcome State Fault Refusal :=
  hostOutcome (transact .slcb .w64 slcb s)

/-- `CTSB32`: `clearTrailingSetBits` on a 32-bit word (R73). -/
def execCtsb32 (s : State) : Host.Outcome State Fault Refusal :=
  hostOutcome (transact .ctsb .w32 ctsb s)

/-- `CTSB64`: `clearTrailingSetBits` on a 64-bit word (R74). -/
def execCtsb64 (s : State) : Host.Outcome State Fault Refusal :=
  hostOutcome (transact .ctsb .w64 ctsb s)

/-- `STCB32`: `setTrailingClearBits` on a 32-bit word (R76). -/
def execStcb32 (s : State) : Host.Outcome State Fault Refusal :=
  hostOutcome (transact .stcb .w32 stcb s)

/-- `STCB64`: `setTrailingClearBits` on a 64-bit word (R77). -/
def execStcb64 (s : State) : Host.Outcome State Fault Refusal :=
  hostOutcome (transact .stcb .w64 stcb s)

/-- `ILCB32`: `isolateLowestClearBitExclusive` on a 32-bit word (R79). -/
def execIlcb32 (s : State) : Host.Outcome State Fault Refusal :=
  hostOutcome (transact .ilcb .w32 ilcb s)

/-- `ILCB64`: `isolateLowestClearBitExclusive` on a 64-bit word (R80). -/
def execIlcb64 (s : State) : Host.Outcome State Fault Refusal :=
  hostOutcome (transact .ilcb .w64 ilcb s)

end Sys2Proof.Machine
end

