-- ==== Sys2Proof/Machine/ExtIlsc.lean ====
section
/-! DEFINITION. The extension's two instructions (41_ext_ilsc.md rules R92, R93). In a build with `EXT_ILSC` = 1 they are
total, zero included (rule R94); in a build without it, this hardware among them, their codes are reserved and raise
`IllegalCommand` (rules R51, R90). -/

namespace Sys2Proof.Machine

/-- `ILSC32`: `isolateLowestSetBitComplementRegion` on a 32-bit word (R92). -/
def execIlsc32 (s : State) : Host.Outcome State Fault Refusal :=
  hostOutcome (transact .ilsc .w32 ilsc s)

/-- `ILSC64`: `isolateLowestSetBitComplementRegion` on a 64-bit word (R93). -/
def execIlsc64 (s : State) : Host.Outcome State Fault Refusal :=
  hostOutcome (transact .ilsc .w64 ilsc s)

end Sys2Proof.Machine
end

