-- ==== Sys2Proof/Machine/Dispatch.lean ====
section
/-! DEFINITION. The meaning of every instruction, one arm per constructor. -/

namespace Sys2Proof.Machine

def exec (i : Instr) (s : State) : Host.Outcome State Fault Refusal :=
  match i with
  | .clsb32 => Sys2Proof.Machine.execClsb32 s
  | .slcb32 => Sys2Proof.Machine.execSlcb32 s
  | .ctsb32 => Sys2Proof.Machine.execCtsb32 s
  | .stcb32 => Sys2Proof.Machine.execStcb32 s
  | .ilcb32 => Sys2Proof.Machine.execIlcb32 s
  | .ilsc32 => Sys2Proof.Machine.execIlsc32 s
  | .clsb64 => Sys2Proof.Machine.execClsb64 s
  | .slcb64 => Sys2Proof.Machine.execSlcb64 s
  | .ctsb64 => Sys2Proof.Machine.execCtsb64 s
  | .stcb64 => Sys2Proof.Machine.execStcb64 s
  | .ilcb64 => Sys2Proof.Machine.execIlcb64 s
  | .ilsc64 => Sys2Proof.Machine.execIlsc64 s

end Sys2Proof.Machine
end

