-- ==== Sys2Proof/Machine/Step.lean ====
section
/-! DEFINITION. One step is one transaction (00_scope.md rule R8, 10_state.md rule R19). The block has no program counter
and fetches nothing (rules R12, R39): the command is the one on the port `cmd`. -/

namespace Sys2Proof.Machine

/-- One transaction: decode the command on the request ports and execute it. A reserved command raises `IllegalCommand`
(R50); a request that is no pair of bit vectors is refused (R9, R116). -/
def step (s : State) : Host.Outcome State Fault Refusal :=
  match s.request with
  | none => hostOutcome (.refused .notARequest)
  | some r =>
    match decodeCmd r.cmd with
    | .ok i => exec i s
    | .error _ => hostOutcome (raiseIllegalCommand s)

/-- The operand on the port `x`, zero where nobody drives it. -/
def State.operandOnPort (s : State) : BitVec xlen :=
  match s.request with
  | some r => r.x
  | none => 0#xlen

/-- `s` with the command `w` on the port `cmd`, the operand kept (zero where the port was not driven). A number that is no
4-bit command leaves the ports without a request. -/
def State.withFetchWord (s : State) (_nbits w : Nat) : State :=
  match requestOfNats w s.operandOnPort.toNat with
  | some r => s.present r
  | none => s.idle

end Sys2Proof.Machine
end

