-- ==== Sys2Proof/Machine/Reference.lean ====
section
/-! DEFINITION. The reference functions of 00_scope.md section 7: notation for the laws and the tests, not operations of the
block, which has no instruction for them (30_encoding.md rule R56). They are written by position, not by the formulas under
test. -/

namespace Sys2Proof.Machine

/-- `trailingZeros_W(v)`: the position of the least significant 1, and `W` for zero (00_scope.md section 7,
40_bit_primitives.md rule R83; the value at zero is 93_implementation_defined.md G1, log entry 9). -/
def trailingZeros {W : Nat} (v : Word W) : Nat := ((List.range W).find? (fun i => v.getLsbD i)).getD W

/-- `trailingOnes_W(v) = trailingZeros_W(~v)`. -/
def trailingOnes {W : Nat} (v : Word W) : Nat := trailingZeros (~~~v)

/-- `lowestSetBit_W(v)`: a single 1 at the position of the least significant 1 of `v`, and zero for zero. -/
def lowestSetBit {W : Nat} (v : Word W) : Word W :=
  match (List.range W).find? (fun i => v.getLsbD i) with
  | some i => BitVec.twoPow W i
  | none => 0#W

/-- `lowmask_W(n)`: the `n` low bits 1, read as `2^n - 1` (90_conflicts.md C1). -/
def lowmask (W n : Nat) : Word W := BitVec.ofNat W (2 ^ n - 1)

/-- `highestSetBitIndex_W(v)`: -1 for zero, else the position of the most significant 1. No rule of the block uses it
(41_ext_ilsc.md rule R96). -/
def highestSetBitIndex {W : Nat} (v : Word W) : Int :=
  match (List.range W).reverse.find? (fun i => v.getLsbD i) with
  | some i => (i : Int)
  | none => -1

/-- The number of 1 bits, used by the bit-level statements of rules R66 and R88 only. -/
def countOnes {W : Nat} (v : Word W) : Nat := (List.range W).countP (fun i => v.getLsbD i)

end Sys2Proof.Machine
end

