-- ==== Sys2Proof/Machine/Written.lean ====
section
/-! DEFINITION. The spec's written forms (30_encoding.md rules R54, R55): names of instructions, the text of a request, of
an encoded request and of a transaction. -/

namespace Sys2Proof.Machine

/-- All instructions, in the order of spec/opcode_table.json. -/
def allInstrs : List Instr := opcodeTable.map OpcodeRow.instr

/-- The mnemonic (R54). -/
def mnemonicOf : Instr → String
  | .clsb32 => "CLSB32"
  | .slcb32 => "SLCB32"
  | .ctsb32 => "CTSB32"
  | .stcb32 => "STCB32"
  | .ilcb32 => "ILCB32"
  | .ilsc32 => "ILSC32"
  | .clsb64 => "CLSB64"
  | .slcb64 => "SLCB64"
  | .ctsb64 => "CTSB64"
  | .stcb64 => "STCB64"
  | .ilcb64 => "ILCB64"
  | .ilsc64 => "ILSC64"

/-- The document's name of an operation (R2, R55). -/
def documentName : Operation → String
  | .clsb => "clearLowestSetBit"
  | .slcb => "setLowestClearBit"
  | .ctsb => "clearTrailingSetBits"
  | .stcb => "setTrailingClearBits"
  | .ilcb => "isolateLowestClearBitExclusive"
  | .ilsc => "isolateLowestSetBitComplementRegion"

/-- The requester's name of an operation; the sixth has none (R2, R55). -/
def requesterName : Operation → Option String
  | .clsb => some "clear_lowest_set_bit"
  | .slcb => some "set_lowest_clear_bit"
  | .ctsb => some "clear_trailing_set_bits"
  | .stcb => some "set_trailing_clear_bits"
  | .ilcb => some "isolate_lowest_clear_bit"
  | .ilsc => none

/-- The instruction a mnemonic names. -/
def instrOfMnemonic (m : String) : Option Instr := allInstrs.find? (fun i => mnemonicOf i == m)

/-- The instruction that a function name, the document's or the requester's, means at a width (R55). -/
def instrOfName (name : String) (w : Width) : Option Instr :=
  allInstrs.find? (fun i =>
    i.width == w && (documentName i.operation == name || requesterName i.operation == some name))

/-- The value of a digit, letters of either case. -/
def digitValue (c : Char) : Option Nat :=
  if 48 ≤ c.toNat ∧ c.toNat ≤ 57 then some (c.toNat - 48)
  else if 65 ≤ c.toNat ∧ c.toNat ≤ 70 then some (c.toNat - 55)
  else if 97 ≤ c.toNat ∧ c.toNat ≤ 102 then some (c.toNat - 87)
  else none

/-- Digits in a base, most significant first. -/
def readDigits (base : Nat) : List Char → Nat → Option Nat
  | [], acc => some acc
  | c :: rest, acc =>
    match digitValue c with
    | some d => if d < base then readDigits base rest (acc * base + d) else none
    | none => none

/-- A literal for an instruction of width `w`: `0x` and the width's full number of hexadecimal digits (8 or 16), or a
binary or decimal literal. `_` only groups digits (00_scope.md section 6, R54). -/
def readLiteral (w : Width) (text : List Char) : Option Nat :=
  match text.filter (fun c => c != '_') with
  | '0' :: 'x' :: ds => if ds.length = w.bits / 4 then readDigits 16 ds 0 else none
  | '0' :: 'b' :: [] => none
  | '0' :: 'b' :: ds => readDigits 2 ds 0
  | [] => none
  | ds => readDigits 10 ds 0

/-- `<MNEMONIC> <operand>`, one space between (R54). None where the text is no written request or the value does not
fit. -/
def readWritten (text : String) : Option Written :=
  let cs := text.toList
  match instrOfMnemonic (String.ofList (cs.takeWhile (fun c => c != ' '))) with
  | none => none
  | some i =>
    match cs.dropWhile (fun c => c != ' ') with
    | [] => none
    | _ :: lit =>
      match readLiteral i.width lit with
      | none => none
      | some v => if Written.wf { instr := i, operand := v } then some { instr := i, operand := v } else none

/-- One hexadecimal digit, capitals as the spec writes them. -/
def hexDigit (n : Nat) : Char := if n < 10 then Char.ofNat (48 + n) else Char.ofNat (55 + n)

/-- The `k` low hexadecimal digits of a number, before `acc`. -/
def hexDigits : Nat → Nat → List Char → List Char
  | 0, _, acc => acc
  | k + 1, n, acc => hexDigits k (n / 16) (hexDigit (n % 16) :: acc)

/-- The written request of an instruction and an operand, in hexadecimal at full width (R54). -/
def showWritten (l : Written) : String :=
  mnemonicOf l.instr ++ " 0x" ++ String.ofList (hexDigits (l.instr.width.bits / 4) l.operand [])

/-- `cmd:x` (R54). -/
def showRequest (r : Request) : String :=
  String.ofList (hexDigits 1 r.cmd.toNat []) ++ ":" ++ String.ofList (hexDigits 16 r.x.toNat [])

/-- `ill:y`, with dashes for an unspecified `y` (95_test_vectors.md). -/
def showResponse : Response → String
  | .result y => "0:" ++ String.ofList (hexDigits 16 y.toNat [])
  | .illegal => "1:----------------"

/-- `cmd:x -> ill:y` (R54). -/
def showTransaction (r : Request) (p : Response) : String := showRequest r ++ " -> " ++ showResponse p

end Sys2Proof.Machine
end

