-- ==== Sys2Proof/Machine/Session.lean ====
section
/-! DEFINITION. A run as the requesters see it: a finite sequence of transactions (70_reset_and_hazards.md rule R129). The
sequence is a parameter of a claim, not state (00_scope.md rule R8). Any number of requesters share the ports, one whole
request at a time, each response delivered to the requester whose request produced it (60_exceptions.md rule R113). After an
`IllegalCommand` the block goes on as before (rule R107): a fault stops `step`, not the requester. -/

namespace Sys2Proof.Machine

/-- Who presents a request: `NREQ` is open, so any number (R7, R113). -/
abbrev Requester := Nat

/-- One transaction: the request is presented, the block steps, the response is read. The response is `none` only where the
step was refused. -/
def State.serve (s : State) (r : Request) : Option Response × State :=
  match step (s.present r) with
  | .next t => (t.response, t)
  | .fault .illegalCommand => (some .illegal, (s.present r).respond .illegal)
  | .refused _ => (none, s.present r)

/-- The responses of a sequence of transactions, each with the requester it is delivered to, in the order served. -/
def session (s : State) : List (Requester × Request) → List (Requester × Option Response)
  | [] => []
  | (who, r) :: rest => (who, (s.serve r).1) :: session (s.serve r).2 rest

/-- What is delivered to one requester. -/
def deliveredTo (who : Requester) (l : List (Requester × Option Response)) : List (Requester × Option Response) :=
  l.filter (fun p => p.1 == who)

end Sys2Proof.Machine
end

