-- ==== Sys2Proof/Safety.lean ====
section
/-! DEFINITION. The terms claims use: when a request is on the ports, when the response ports are right, and which
instructions are of the core. -/

namespace Sys2Proof.Machine

/-- The response ports carry `bp` of the request ports at every moment at which these carry a request, and nothing otherwise
(70_reset_and_hazards.md rule R120, 10_state.md rule R24). -/
def State.Consistent (s : State) : Prop :=
  s.response = s.request.map (fun r => bp s.cfg r.cmd r.x)

/-- The transaction `cmd:x -> 0:y` (30_encoding.md rule R54): the request answered with `ill` = 0 and the result `y`. -/
def State.Answers (s : State) (cmd : BitVec cmdlen) (x y : BitVec xlen) : Prop :=
  (s.serve ⟨cmd, x⟩).1 = some (.result y)

/-- The commands rule R102 (60_exceptions.md) names: `op` 6 or 7, or 5 without the extension. -/
def isIllegal (cfg : Config) (cmd : BitVec cmdlen) : Prop :=
  cmd.extractLsb' 0 3 = 6#3 ∨ cmd.extractLsb' 0 3 = 7#3 ∨ (cmd.extractLsb' 0 3 = 5#3 ∧ cfg.extIlsc = false)

/-- An instruction of the core, implemented in every build (00_scope.md rule R2). -/
def isCore (i : Instr) : Bool := i.operation != .ilsc

/-- The value an instruction's rule puts on `y` for an operand port `x`: its operation on the selected operand, placed
(10_state.md rules R19 to R21). -/
def valueOn (i : Instr) (x : BitVec xlen) : BitVec xlen :=
  placeResult i.width (applyOperation i.operation (selectOperand i.width x))

end Sys2Proof.Machine
end

