-- ==== Sys2Proof/Certificates/Slice0/Obligations.lean ====
section
/-! DEFINITION. The statements for the provers. Each docstring names the rule or section of spec/ it formalises. -/

open Sys2Proof Sys2Proof.Machine

/-- R67: the result of `CLSB32` for every operand, its command, its corner cases and its example. -/
def Obligations.Clsb32Result : Prop :=
  (∀ (s : State) (r : Request), s.request = some r →
    exec .clsb32 s = .next (s.respond (.result (0#32 ++ (r.x.extractLsb' 0 32 &&& (r.x.extractLsb' 0 32 - 1#32)))))) ∧
  decodeCmd 0x0#4 = .ok .clsb32 ∧
  (∀ s : State, ∀ c ∈
      [(0x00000000#32, 0x00000000#32), (0x00000001#32, 0x00000000#32),
        (0x80000000#32, 0x00000000#32), (0xFFFFFFFF#32, 0xFFFFFFFE#32),
        (0x7FFFFFFF#32, 0x7FFFFFFE#32), (0x00010000#32, 0x00000000#32),
        (0x000000A8#32, 0x000000A0#32)], s.Answers 0x0#4 (0#32 ++ c.1) (0#32 ++ c.2))

/-- R68: the result of `CLSB64` for every operand, its command, its corner cases and its example. -/
def Obligations.Clsb64Result : Prop :=
  (∀ (s : State) (r : Request), s.request = some r →
    exec .clsb64 s = .next (s.respond (.result (r.x &&& (r.x - 1#64))))) ∧
  decodeCmd 0x8#4 = .ok .clsb64 ∧
  (∀ s : State, ∀ c ∈
      [(0x0000000000000000#64, 0x0000000000000000#64), (0x8000000000000000#64, 0x0000000000000000#64),
        (0xFFFFFFFFFFFFFFFF#64, 0xFFFFFFFFFFFFFFFE#64), (0x7FFFFFFFFFFFFFFF#64, 0x7FFFFFFFFFFFFFFE#64),
        (0x0000000100000000#64, 0x0000000000000000#64), (0xFFFFFFFF00000000#64, 0xFFFFFFFE00000000#64),
        (0x0123456789ABCDEF#64, 0x0123456789ABCDEE#64)], s.Answers 0x8#4 c.1 c.2) ∧
  (∀ s : State, s.Answers 0x0#4 0x0000000100000000#64 0x0000000000000000#64)

/-- R70: the result of `SLCB32` for every operand, its command, its corner cases and its example. -/
def Obligations.Slcb32Result : Prop :=
  (∀ (s : State) (r : Request), s.request = some r →
    exec .slcb32 s = .next (s.respond (.result (0#32 ++ (r.x.extractLsb' 0 32 ||| (r.x.extractLsb' 0 32 + 1#32)))))) ∧
  decodeCmd 0x1#4 = .ok .slcb32 ∧
  (∀ s : State, ∀ c ∈
      [(0x00000000#32, 0x00000001#32), (0xFFFFFFFF#32, 0xFFFFFFFF#32),
        (0x7FFFFFFF#32, 0xFFFFFFFF#32), (0x80000000#32, 0x80000001#32),
        (0xFFFFFFFE#32, 0xFFFFFFFF#32), (0x000000A7#32, 0x000000AF#32)], s.Answers 0x1#4 (0#32 ++ c.1) (0#32 ++ c.2))

/-- R71: the result of `SLCB64` for every operand, its command, its corner cases and its example. -/
def Obligations.Slcb64Result : Prop :=
  (∀ (s : State) (r : Request), s.request = some r →
    exec .slcb64 s = .next (s.respond (.result (r.x ||| (r.x + 1#64))))) ∧
  decodeCmd 0x9#4 = .ok .slcb64 ∧
  (∀ s : State, ∀ c ∈
      [(0x0000000000000000#64, 0x0000000000000001#64), (0xFFFFFFFFFFFFFFFF#64, 0xFFFFFFFFFFFFFFFF#64),
        (0x7FFFFFFFFFFFFFFF#64, 0xFFFFFFFFFFFFFFFF#64), (0x8000000000000000#64, 0x8000000000000001#64),
        (0x00000000FFFFFFFF#64, 0x00000001FFFFFFFF#64), (0x0123456789ABCDEF#64, 0x0123456789ABCDFF#64)], s.Answers 0x9#4 c.1 c.2) ∧
  (∀ s : State, s.Answers 0x1#4 0x00000000FFFFFFFF#64 0x00000000FFFFFFFF#64)

/-- R73: the result of `CTSB32` for every operand, its command, its corner cases and its example. -/
def Obligations.Ctsb32Result : Prop :=
  (∀ (s : State) (r : Request), s.request = some r →
    exec .ctsb32 s = .next (s.respond (.result (0#32 ++ (r.x.extractLsb' 0 32 &&& (r.x.extractLsb' 0 32 + 1#32)))))) ∧
  decodeCmd 0x2#4 = .ok .ctsb32 ∧
  (∀ s : State, ∀ c ∈
      [(0x00000000#32, 0x00000000#32), (0xFFFFFFFF#32, 0x00000000#32),
        (0x7FFFFFFF#32, 0x00000000#32), (0x80000000#32, 0x80000000#32),
        (0x00000001#32, 0x00000000#32), (0xFFFFFFFE#32, 0xFFFFFFFE#32),
        (0x0000FFFF#32, 0x00000000#32), (0x80000001#32, 0x80000000#32),
        (0x000000A7#32, 0x000000A0#32)], s.Answers 0x2#4 (0#32 ++ c.1) (0#32 ++ c.2))

/-- R74: the result of `CTSB64` for every operand, its command, its corner cases and its example. -/
def Obligations.Ctsb64Result : Prop :=
  (∀ (s : State) (r : Request), s.request = some r →
    exec .ctsb64 s = .next (s.respond (.result (r.x &&& (r.x + 1#64))))) ∧
  decodeCmd 0xA#4 = .ok .ctsb64 ∧
  (∀ s : State, ∀ c ∈
      [(0x0000000000000000#64, 0x0000000000000000#64), (0xFFFFFFFFFFFFFFFF#64, 0x0000000000000000#64),
        (0x7FFFFFFFFFFFFFFF#64, 0x0000000000000000#64), (0x8000000000000000#64, 0x8000000000000000#64),
        (0x00000000FFFFFFFF#64, 0x0000000000000000#64), (0xFFFFFFFF00000000#64, 0xFFFFFFFF00000000#64),
        (0x5555555555555555#64, 0x5555555555555554#64), (0x0123456789ABCDEF#64, 0x0123456789ABCDE0#64)], s.Answers 0xA#4 c.1 c.2)

/-- R76: the result of `STCB32` for every operand, its command, its corner cases and its example. -/
def Obligations.Stcb32Result : Prop :=
  (∀ (s : State) (r : Request), s.request = some r →
    exec .stcb32 s = .next (s.respond (.result (0#32 ++ (r.x.extractLsb' 0 32 ||| (r.x.extractLsb' 0 32 - 1#32)))))) ∧
  decodeCmd 0x3#4 = .ok .stcb32 ∧
  (∀ s : State, ∀ c ∈
      [(0x00000000#32, 0xFFFFFFFF#32), (0x00000001#32, 0x00000001#32),
        (0xFFFFFFFF#32, 0xFFFFFFFF#32), (0x80000000#32, 0xFFFFFFFF#32),
        (0x7FFFFFFF#32, 0x7FFFFFFF#32), (0xFFFF0000#32, 0xFFFFFFFF#32),
        (0x00010000#32, 0x0001FFFF#32), (0x000000A8#32, 0x000000AF#32)], s.Answers 0x3#4 (0#32 ++ c.1) (0#32 ++ c.2))

/-- R77: the result of `STCB64` for every operand, its command, its corner cases and its example. -/
def Obligations.Stcb64Result : Prop :=
  (∀ (s : State) (r : Request), s.request = some r →
    exec .stcb64 s = .next (s.respond (.result (r.x ||| (r.x - 1#64))))) ∧
  decodeCmd 0xB#4 = .ok .stcb64 ∧
  (∀ s : State, ∀ c ∈
      [(0x0000000000000000#64, 0xFFFFFFFFFFFFFFFF#64), (0x0000000000000001#64, 0x0000000000000001#64),
        (0xFFFFFFFFFFFFFFFF#64, 0xFFFFFFFFFFFFFFFF#64), (0x8000000000000000#64, 0xFFFFFFFFFFFFFFFF#64),
        (0x7FFFFFFFFFFFFFFF#64, 0x7FFFFFFFFFFFFFFF#64), (0x0000000100000000#64, 0x00000001FFFFFFFF#64),
        (0xFFFFFFFF00000000#64, 0xFFFFFFFFFFFFFFFF#64), (0xAAAAAAAAAAAAAAAA#64, 0xAAAAAAAAAAAAAAAB#64)], s.Answers 0xB#4 c.1 c.2) ∧
  (∀ s : State, s.Answers 0x3#4 0x0000000100000000#64 0x00000000FFFFFFFF#64)

/-- R79: the result of `ILCB32` for every operand, its command, its corner cases and its example. -/
def Obligations.Ilcb32Result : Prop :=
  (∀ (s : State) (r : Request), s.request = some r →
    exec .ilcb32 s = .next (s.respond (.result (0#32 ++ (~~~(r.x.extractLsb' 0 32) &&& (r.x.extractLsb' 0 32 + 1#32)))))) ∧
  decodeCmd 0x4#4 = .ok .ilcb32 ∧
  (∀ s : State, ∀ c ∈
      [(0xFFFFFFFF#32, 0x00000000#32), (0x00000000#32, 0x00000001#32),
        (0x7FFFFFFF#32, 0x80000000#32), (0x80000000#32, 0x00000001#32),
        (0xFFFFFFFE#32, 0x00000001#32), (0x0000FFFF#32, 0x00010000#32),
        (0x000000A7#32, 0x00000008#32)], s.Answers 0x4#4 (0#32 ++ c.1) (0#32 ++ c.2))

/-- R80: the result of `ILCB64` for every operand, its command, its corner cases and its example. -/
def Obligations.Ilcb64Result : Prop :=
  (∀ (s : State) (r : Request), s.request = some r →
    exec .ilcb64 s = .next (s.respond (.result (~~~r.x &&& (r.x + 1#64))))) ∧
  decodeCmd 0xC#4 = .ok .ilcb64 ∧
  (∀ s : State, ∀ c ∈
      [(0xFFFFFFFFFFFFFFFF#64, 0x0000000000000000#64), (0x0000000000000000#64, 0x0000000000000001#64),
        (0x7FFFFFFFFFFFFFFF#64, 0x8000000000000000#64), (0x8000000000000000#64, 0x0000000000000001#64),
        (0x00000000FFFFFFFF#64, 0x0000000100000000#64), (0x000000007FFFFFFF#64, 0x0000000080000000#64),
        (0x00000000000000A7#64, 0x0000000000000008#64)], s.Answers 0xC#4 c.1 c.2) ∧
  (∀ s : State, s.Answers 0x4#4 0x00000000FFFFFFFF#64 0x0000000000000000#64)

/-- R92: the result of `ILSC32` for every operand, in a build with the extension, its command, its corner cases and its example. -/
def Obligations.Ilsc32Result : Prop :=
  (∀ (s : State) (r : Request), s.cfg.extIlsc = true → s.request = some r →
    exec .ilsc32 s = .next (s.respond (.result (0#32 ++ (~~~(r.x.extractLsb' 0 32) ||| (r.x.extractLsb' 0 32 - 1#32)))))) ∧
  decodeCmd 0x5#4 = .ok .ilsc32 ∧
  (∀ s : State, s.cfg.extIlsc = true → ∀ c ∈
      [(0x00000000#32, 0xFFFFFFFF#32), (0x00000001#32, 0xFFFFFFFE#32),
        (0x80000000#32, 0x7FFFFFFF#32), (0xFFFFFFFF#32, 0xFFFFFFFE#32),
        (0x7FFFFFFF#32, 0xFFFFFFFE#32), (0xFFFF0000#32, 0xFFFEFFFF#32),
        (0x000000A8#32, 0xFFFFFFF7#32)], s.Answers 0x5#4 (0#32 ++ c.1) (0#32 ++ c.2))

/-- R93: the result of `ILSC64` for every operand, in a build with the extension, its command, its corner cases and its example. -/
def Obligations.Ilsc64Result : Prop :=
  (∀ (s : State) (r : Request), s.cfg.extIlsc = true → s.request = some r →
    exec .ilsc64 s = .next (s.respond (.result (~~~r.x ||| (r.x - 1#64))))) ∧
  decodeCmd 0xD#4 = .ok .ilsc64 ∧
  (∀ s : State, s.cfg.extIlsc = true → ∀ c ∈
      [(0x0000000000000000#64, 0xFFFFFFFFFFFFFFFF#64), (0x0000000000000001#64, 0xFFFFFFFFFFFFFFFE#64),
        (0x8000000000000000#64, 0x7FFFFFFFFFFFFFFF#64), (0xFFFFFFFFFFFFFFFF#64, 0xFFFFFFFFFFFFFFFE#64),
        (0x0000000100000000#64, 0xFFFFFFFEFFFFFFFF#64), (0x0000000080000000#64, 0xFFFFFFFF7FFFFFFF#64),
        (0x00000000000000A8#64, 0xFFFFFFFFFFFFFFF7#64)], s.Answers 0xD#4 c.1 c.2)

/-- R50: the four commands reserved in every build. The operand is not looked at, and no later transaction is changed. -/
def Obligations.ReservedCommandsRaise : Prop :=
  ∀ (s : State) (x : BitVec 64), ∀ c ∈ [0x6#4, 0x7#4, 0xE#4, 0xF#4],
    step (s.present ⟨c, x⟩) = .fault .illegalCommand ∧
    (s.serve ⟨c, x⟩).1 = some .illegal ∧ responseIll .illegal = 1#1 ∧ responseY .illegal = none ∧
    (∀ y : BitVec 64, responseAllows .illegal 1#1 y = true) ∧
    ∀ r : Request, ((s.serve ⟨c, x⟩).2.serve r).1 = (s.serve r).1

/-- R51: the two commands of the extension, in both kinds of build. -/
def Obligations.ExtensionCommands : Prop :=
  (∀ (s : State) (x : BitVec 64), s.cfg.extIlsc = false →
    (∀ c ∈ [0x5#4, 0xD#4], step (s.present ⟨c, x⟩) = .fault .illegalCommand ∧
      (s.serve ⟨c, x⟩).1 = some .illegal ∧ responseIll .illegal = 1#1 ∧ responseY .illegal = none ∧
      (∀ y : BitVec 64, responseAllows .illegal 1#1 y = true) ∧
      ∀ r : Request, ((s.serve ⟨c, x⟩).2.serve r).1 = (s.serve r).1) ∧
    ∀ i ∈ [Instr.ilsc32, Instr.ilsc64], ∀ r, s.request = some r → exec i s = .fault .illegalCommand) ∧
  (∀ (s : State) (x : BitVec 64), s.cfg.extIlsc = true →
    step (s.present ⟨0x5#4, x⟩) = exec .ilsc32 (s.present ⟨0x5#4, x⟩) ∧
    step (s.present ⟨0xD#4, x⟩) = exec .ilsc64 (s.present ⟨0xD#4, x⟩)) ∧
  State.reset.cfg.extIlsc = false

/-- R49: the complete map, and the opcode table that carries it. -/
def Obligations.CommandMap : Prop :=
  (∀ cfg : Config,
    classify cfg 0x0#4 = .core .clsb32 ∧ classify cfg 0x1#4 = .core .slcb32 ∧
    classify cfg 0x2#4 = .core .ctsb32 ∧ classify cfg 0x3#4 = .core .stcb32 ∧
    classify cfg 0x4#4 = .core .ilcb32 ∧
    classify cfg 0x5#4 = (if cfg.extIlsc then .ext .ilsc32 else .reserved) ∧
    classify cfg 0x6#4 = .reserved ∧ classify cfg 0x7#4 = .reserved ∧
    classify cfg 0x8#4 = .core .clsb64 ∧ classify cfg 0x9#4 = .core .slcb64 ∧
    classify cfg 0xA#4 = .core .ctsb64 ∧ classify cfg 0xB#4 = .core .stcb64 ∧
    classify cfg 0xC#4 = .core .ilcb64 ∧
    classify cfg 0xD#4 = (if cfg.extIlsc then .ext .ilsc64 else .reserved) ∧
    classify cfg 0xE#4 = .reserved ∧ classify cfg 0xF#4 = .reserved) ∧
  opcodeTable.length = 12 ∧ (opcodeTable.filter (fun row => !row.whenBuilt)).length = 10 ∧
  (∀ row ∈ opcodeTable, row.mask = 0xF#4) ∧
  (∀ cmd : BitVec 4, (opcodeTable.filter (fun row => row.covers cmd)).length ≤ 1) ∧
  (∀ (cfg : Config) (cmd : BitVec 4), classify cfg cmd = .reserved ↔
    ∀ row ∈ opcodeTable, row.covers cmd = true → row.whenBuilt = true ∧ cfg.extIlsc = false) ∧
  (∀ row ∈ opcodeTable, decodeCmd row.pattern = .ok row.instr) ∧ (opcodeTable.map OpcodeRow.instr).Nodup ∧
  (∀ (s : State) (cmd : BitVec 4) (x : BitVec 64), classify s.cfg cmd = .reserved →
    step (s.present ⟨cmd, x⟩) = .fault .illegalCommand)

/-- R47 (with the field layout of 30_encoding.md section 1): the fields of a command and what each value of `op` selects. -/
def Obligations.CommandFields : Prop :=
  ∀ (w : BitVec 1) (op : BitVec 3),
    widthField (w ++ op) = w ∧ opField (w ++ op) = op ∧
    (∀ (o : Operation), (op, o) ∈ [(0#3, Operation.clsb), (1#3, .slcb), (2#3, .ctsb), (3#3, .stcb), (4#3, .ilcb),
        (5#3, .ilsc)] →
      decodeCmd (w ++ op) = .ok (Instr.of o (if w = 0#1 then .w32 else .w64))) ∧
    (op = 6#3 ∨ op = 7#3 → decodeCmd (w ++ op) = .error (.reservedOperation op))

/-- 30_encoding.md section 3: no instruction has a don't-care bit. -/
def Obligations.EncodeOfDecodedCommand : Prop :=
  ∀ (cmd : BitVec 4) (i : Instr), decodeCmd cmd = .ok i → encodeCmd i = cmd

/-- 30_encoding.md section 3. That a byte with a bit above bit 3 is no command is the model's choice (log entry 6). -/
def Obligations.SampleCommandsDecode : Prop :=
  decodeTableWord 8 0b0000 = some .clsb32 ∧ decodeTableWord 8 0b1011 = some .stcb64 ∧
  decodeTableWord 8 0b0100 = some .ilcb32 ∧ decodeTableWord 8 0b1101 = some .ilsc64 ∧
  decodeTableWord 8 0b0111 = none ∧ decodeTableWord 8 0b10000 = none

/-- 30_encoding.md section 6: decode and encode agree on whole requests, every instruction at every operand. -/
def Obligations.WrittenRequestRoundTrip : Prop :=
  (∀ l : Written, l.wf = true → ∃ r, l.assemble = some r ∧ r.cmd = encodeCmd l.instr ∧ r.x.toNat = l.operand ∧
    r.disassemble = .ok l) ∧
  (∀ l : Written, l.wf = false → l.assemble = none) ∧
  (∀ (r : Request) (l : Written), r.disassemble = .ok l → l.wf = true ∧
    ∃ r', l.assemble = some r' ∧ r'.cmd = r.cmd ∧
      selectOperand l.instr.width r'.x = selectOperand l.instr.width r.x)

/-- 30_encoding.md section 6: showing and reading the written form agree at every operand. -/
def Obligations.WrittenTextRoundTrip : Prop :=
  ∀ l : Written, l.wf = true → readWritten (showWritten l) = some l

/-- R20: operand selection. -/
def Obligations.OperandSelection : Prop :=
  ∀ (s : State) (cmd : BitVec 4) (o : Operation),
    Operation.ofField (cmd.extractLsb' 0 3) = .ok o → o.builtIn s.cfg = true →
    (cmd.getLsbD 3 = false → ∀ x x' : BitVec 64, x.extractLsb' 0 32 = x'.extractLsb' 0 32 →
      (s.serve ⟨cmd, x⟩).1 = (s.serve ⟨cmd, x'⟩).1 ∧
      ∃ y, s.Answers cmd x y ∧ y.extractLsb' 0 32 = applyOperation o (x.extractLsb' 0 32)) ∧
    (cmd.getLsbD 3 = true → ∀ x : BitVec 64, s.Answers cmd x (applyOperation o x))

/-- R21: result placement, and its example. -/
def Obligations.ResultPlacement : Prop :=
  (∀ (s : State) (cmd : BitVec 4) (o : Operation) (x y : BitVec 64),
    Operation.ofField (cmd.extractLsb' 0 3) = .ok o → s.Answers cmd x y →
    (cmd.getLsbD 3 = false → (∀ i, 32 ≤ i → y.getLsbD i = false) ∧
      y.extractLsb' 0 32 = applyOperation o (x.extractLsb' 0 32) ∧
      Word.signedValue (y.extractLsb' 0 32) = (applyOperation o (x.extractLsb' 0 32)).toInt) ∧
    (cmd.getLsbD 3 = true → y = applyOperation o x)) ∧
  (∀ s : State, s.Answers 0x0#4 0x00000000FFFFFFFF#64 0x00000000FFFFFFFE#64) ∧
  Word.signedValue 0xFFFFFFFE#32 = -2 ∧ Word.signedValue 0x00000000FFFFFFFE#64 = 4294967294

/-- R22: the port `ill`. -/
def Obligations.IllIsAFunctionOfTheCommand : Prop :=
  ∀ (s : State) (cmd : BitVec 4) (x : BitVec 64), ∃ p, (s.serve ⟨cmd, x⟩).1 = some p ∧
    responseIll p = illBit s.cfg cmd ∧ (responseIll p = 1#1 ↔ isIllegal s.cfg cmd) ∧
    (responseIll p = 0#1 ↔ ¬ isIllegal s.cfg cmd)

/-- R19: the machine's step computes the block's function. -/
def Obligations.StepRefinesTransactionFunction : Prop :=
  ∀ (s : State) (r : Request), s.request = some r →
    (∀ y, bp s.cfg r.cmd r.x = .result y → step s = .next (s.respond (.result y))) ∧
    (bp s.cfg r.cmd r.x = .illegal → step s = .fault .illegalCommand) ∧
    (s.serve r).1 = some (bp s.cfg r.cmd r.x)

/-- R23: total, deterministic, pure. -/
def Obligations.EveryRequestHasAResponse : Prop :=
  ∀ (s : State) (r : Request), ∃ p, (s.serve r).1 = some p ∧
    (∀ s' : State, s'.cfg = s.cfg → (s'.serve r).1 = some p) ∧
    (s.serve r).2 = (s.present r).respond p ∧ p = bp s.cfg r.cmd r.x

/-- R100: the ten core instructions are total. -/
def Obligations.CoreInstructionsNeverRaise : Prop :=
  ∀ (i : Instr) (s : State) (r : Request), isCore i = true → s.request = some r →
    exec i s = .next (s.respond (.result (valueOn i r.x))) ∧ responseIll (.result (valueOn i r.x)) = 0#1

/-- R102, R103: cause, effect, and no trace in any later transaction. -/
def Obligations.IllegalCommandEffect : Prop :=
  (∀ (s : State) (r : Request), (step (s.present r) = .fault .illegalCommand ↔ isIllegal s.cfg r.cmd) ∧
    ((s.serve r).1 = some .illegal ↔ isIllegal s.cfg r.cmd)) ∧
  (∀ (s : State) (r : Request), isIllegal s.cfg r.cmd →
    ∀ later, session (s.serve r).2 later = session s later) ∧
  responseY .illegal = none ∧
  (∀ (ill : BitVec 1) (y : BitVec 64), responseAllows .illegal ill y = true ↔ ill = 1#1)

/-- R36: (a) independence, (b) any order, repetition or dropping, (c) no requester learns of another. -/
def Obligations.SessionIndependence : Prop :=
  (∀ (s s' : State) (qs : List (Requester × Request)), s'.cfg = s.cfg →
    session s' qs = qs.map (fun q => (q.1, (s.serve q.2).1))) ∧
  (∀ (s : State) (qs qs' : List (Requester × Request)), qs.Perm qs' → (session s qs).Perm (session s qs')) ∧
  (∀ (s : State) (qs qs' : List (Requester × Request)), qs.Sublist qs' →
    (session s qs).Sublist (session s qs')) ∧
  (∀ (s : State) (who : Requester) (qs qs' : List (Requester × Request)),
    qs.filter (fun q => q.1 == who) = qs'.filter (fun q => q.1 == who) →
    deliveredTo who (session s qs) = deliveredTo who (session s qs'))

/-- 70_reset_and_hazards.md section 1: at every moment at which the request ports carry a request, the response ports carry
`bp` of it. The ports as fields of `State`, empty where nobody drives them, are the model's choice (log entry 7). -/
def Obligations.StepKeepsPortsConsistent : Prop :=
  (∀ s t : State, s.Consistent → step s = .next t → t.Consistent) ∧
  (∀ (s : State) (r : Request),
    (s.present r).Consistent ∧ s.idle.Consistent ∧ s.systemReset.Consistent ∧ (s.serve r).2.Consistent ∧
    (s.present r).response = some (bp s.cfg r.cmd r.x) ∧
    (s.serve r).2.response = some (bp s.cfg r.cmd r.x))

/-- The invariant holds at reset (the ports carry nothing there: log entry 3). -/
def Obligations.ResetPortsConsistent : Prop := State.reset.Consistent

/-- 70_reset_and_hazards.md section 1. Empty ports at reset and the refusal are the model's choices (log entries 3, 4). -/
def Obligations.ResetState : Prop :=
  State.reset.cfg.extIlsc = false ∧ State.reset.request = none ∧ State.reset.response = none ∧
  step State.reset = .refused (.block .notARequest) ∧
  ∀ (s : State) (r : Request), s.cfg = Config.thisHardware → (State.reset.serve r).1 = (s.serve r).1

/-- 20_memory.md section 1: repeating a request gives the same response and leaves everything else as it was. -/
def Obligations.RepeatingARequestChangesNothing : Prop :=
  ∀ s t : State, step s = .next t → step t = .next t

/-- 10_state.md section 3, 30_encoding.md section 3: one step is the meaning of the command on the port. -/
def Obligations.StepRunsDecodedInstruction : Prop :=
  ∀ (s : State) (r : Request) (i : Instr), s.request = some r → decodeCmd r.cmd = .ok i → step s = exec i s

/-- The host's way to place an instruction; the model's own (log entry 5). -/
def Obligations.FetchWordRunsItsInstruction : Prop :=
  ∀ (s : State) (w : Nat) (i : Instr), decodeTableWord 8 w = some i →
    (s.withFetchWord 8 w).request = some ⟨encodeCmd i, s.operandOnPort⟩ ∧
    (s.withFetchWord 8 w).cfg = s.cfg ∧
    step (s.withFetchWord 8 w) = exec i (s.withFetchWord 8 w)

/-- The frame of every instruction: configuration and request stay; only the response ports are driven. -/
def Obligations.InstructionFrame : Prop :=
  ∀ (i : Instr) (s t : State), exec i s = .next t →
    t.cfg = s.cfg ∧ t.request = s.request ∧ ∃ r, s.request = some r ∧ t.response = some (.result (valueOn i r.x))

/-- 10_state.md section 1: no state survives from one transaction to the next. -/
def Obligations.EarlierResponseNeverMatters : Prop :=
  ∀ s s' : State, s.cfg = s'.cfg → s.request = s'.request →
    step s = step s' ∧ ∀ i : Instr, exec i s = exec i s'

/-- 60_exceptions.md section 5. `BlockRefusal` and `Fault` hold exactly what it names, and every outcome comes from them. That
ports without a request are refused is also log entry 4; the host's type has a placeholder besides, which nothing gives (log
entry 12). -/
def Obligations.StepOutcomes : Prop :=
  ∀ s : State,
    ((∃ e, step s = .refused e) ↔ s.request = none) ∧
    ((∃ e, step s = .fault e) ↔ ∃ r, s.request = some r ∧ isIllegal s.cfg r.cmd) ∧
    ((∃ t, step s = .next t) ↔ ∃ r, s.request = some r ∧ ¬ isIllegal s.cfg r.cmd) ∧
    (∀ e, step s = .refused e → e = .block .notARequest) ∧ (∀ e, step s = .fault e → e = .illegalCommand) ∧
    (∀ i : Instr, s.request = none → exec i s = .refused (.block .notARequest)) ∧
    (∀ (i : Instr) (e : Refusal), exec i s = .refused e → s.request = none ∧ e = .block .notARequest) ∧
    (∃ o : BlockOutcome, step s = hostOutcome o) ∧ ∀ i : Instr, ∃ o : BlockOutcome, exec i s = hostOutcome o

/-- 00_scope.md section 4: every operation gives the same bits on either reading, since its arithmetic does. -/
def Obligations.SignedAndUnsignedReadingsAgree : Prop :=
  ∀ (w : Width) (v : Word w.bits),
    BitVec.ofInt w.bits (Word.signedValue v) = v ∧
    v.inc = BitVec.ofInt w.bits (Word.signedValue v + 1) ∧ v.inc = BitVec.ofInt w.bits ((v.toNat : Int) + 1) ∧
    v.dec = BitVec.ofInt w.bits (Word.signedValue v - 1) ∧ v.dec = BitVec.ofInt w.bits ((v.toNat : Int) - 1)

/-- 40_bit_primitives.md section 2; the bit-level statement is the spec's own inference ("derived: from rules R62, R63"). -/
def Obligations.ClsbBitByBit : Prop :=
  ∀ (w : Width) (v : Word w.bits),
    clsb (0#w.bits) = 0#w.bits ∧
    (v ≠ 0#w.bits → ∀ i < w.bits, (clsb v).getLsbD i = if i = trailingZeros v then false else v.getLsbD i) ∧
    (clsb v = 0#w.bits ↔ v = 0#w.bits ∨ ∃ k < w.bits, v = BitVec.twoPow w.bits k) ∧
    (v ≠ 0#w.bits → countOnes (clsb v) + 1 = countOnes v)

/-- 40_bit_primitives.md section 3; the bit-level statement is the spec's own inference. -/
def Obligations.SlcbBitByBit : Prop :=
  ∀ (w : Width) (v : Word w.bits),
    slcb (Word.ones w.bits) = Word.ones w.bits ∧
    (v ≠ Word.ones w.bits → trailingOnes v < w.bits ∧
      ∀ i < w.bits, (slcb v).getLsbD i = if i = trailingOnes v then true else v.getLsbD i) ∧
    slcb (BitVec.intMax w.bits) = Word.ones w.bits

/-- 40_bit_primitives.md section 4; the bit-level statement is the spec's own inference. -/
def Obligations.CtsbBitByBit : Prop :=
  ∀ (w : Width) (v : Word w.bits),
    (∀ i < w.bits, (ctsb v).getLsbD i = if i < trailingOnes v then false else v.getLsbD i) ∧
    ctsb v = v &&& ~~~(lowmask w.bits (trailingOnes v)) ∧
    (ctsb v).getLsbD 0 = false ∧ (v.getLsbD 0 = false → ctsb v = v) ∧
    (v = Word.ones w.bits → ctsb v = 0#w.bits) ∧
    (ctsb v = 0#w.bits ↔ ∃ n ≤ w.bits, v = lowmask w.bits n)

/-- 40_bit_primitives.md section 5; the bit-level statement is the spec's own inference. -/
def Obligations.StcbBitByBit : Prop :=
  ∀ (w : Width) (v : Word w.bits),
    (∀ i < w.bits, (stcb v).getLsbD i = if i < trailingZeros v then true else v.getLsbD i) ∧
    stcb v = v ||| lowmask w.bits (trailingZeros v) ∧
    (stcb v).getLsbD 0 = true ∧ stcb v ≠ 0#w.bits ∧ (v.getLsbD 0 = true → stcb v = v) ∧
    (v = 0#w.bits → stcb v = Word.ones w.bits)

/-- 40_bit_primitives.md section 6; the bit-level statement is the spec's own inference. -/
def Obligations.IlcbBitByBit : Prop :=
  ∀ (w : Width) (v : Word w.bits),
    (v ≠ Word.ones w.bits → trailingOnes v < w.bits ∧ (ilcb v).toNat = 2 ^ trailingOnes v) ∧
    (v = Word.ones w.bits → ilcb v = 0#w.bits) ∧ countOnes (ilcb v) ≤ 1 ∧
    ilcb (BitVec.intMax w.bits) = BitVec.intMin w.bits

/-- 41_ext_ilsc.md; the bit-level statement is the spec's own inference, the value at zero its own decision (D11). -/
def Obligations.IlscBitByBit : Prop :=
  (∀ (w : Width) (v : Word w.bits), v ≠ 0#w.bits →
    ilsc v = ~~~(lowestSetBit v) ∧
    ∀ i < w.bits, (ilsc v).getLsbD i = if i = trailingZeros v then false else true) ∧
  (∀ w : Width, ilsc (0#w.bits) = Word.ones w.bits) ∧
  (∀ w : Width, (ilsc (168#w.bits)).extractLsb' 0 8 = 247#8) ∧ Word.signedValue (ilsc 168#32) = -9

/-- R81, the document's property 1. -/
def Obligations.ClsbIsXorWithLowestSetBit : Prop :=
  ∀ (w : Width) (v : Word w.bits), clsb v = v ^^^ lowestSetBit v ∧
    clsb (0#w.bits) = 0#w.bits ∧ lowestSetBit (0#w.bits) = 0#w.bits ∧
    Word.signedValue (clsb (Word.ones w.bits)) = -2

/-- R82, the document's property 2. -/
def Obligations.SlcbIsOrWithLowestClearBit : Prop :=
  ∀ (w : Width) (v : Word w.bits), slcb v = v ||| lowestSetBit (~~~v) ∧
    slcb (0#w.bits) = 1#w.bits ∧ lowestSetBit (~~~(Word.ones w.bits)) = 0#w.bits ∧
    slcb (Word.ones w.bits) = Word.ones w.bits

/-- R83, the document's property 3, with the mask read as `2^n - 1` (90_conflicts.md C1) and the count at zero W (G1). -/
def Obligations.CtsbIsXorWithLowMask : Prop :=
  ∀ (w : Width) (v : Word w.bits),
    (0 < trailingZeros (~~~v) → ctsb v = v ^^^ lowmask w.bits (trailingZeros (~~~v))) ∧
    (trailingZeros (~~~v) = 0 → ctsb v = v) ∧
    trailingZeros (~~~(Word.ones w.bits)) = w.bits ∧ lowmask w.bits w.bits = Word.ones w.bits ∧
    ctsb (Word.ones w.bits) = 0#w.bits

/-- R84, the document's property 4. -/
def Obligations.StcbIsOrWithLowMask : Prop :=
  ∀ (w : Width) (v : Word w.bits),
    (v ≠ 0#w.bits → trailingZeros v ≤ w.bits - 1 ∧
      (0 < trailingZeros v → stcb v = v ||| lowmask w.bits (trailingZeros v)) ∧
      (trailingZeros v = 0 → stcb v = v) ∧ (trailingZeros v = 0 ↔ v.getLsbD 0 = true)) ∧
    stcb (0#w.bits) = Word.ones w.bits

/-- R85, the document's property 5. -/
def Obligations.IlcbIsLowestSetBitOfComplement : Prop :=
  ∀ (w : Width) (v : Word w.bits), ilcb v = lowestSetBit (~~~v) ∧ ilcb (Word.ones w.bits) = 0#w.bits

/-- 40_bit_primitives.md section 7, the dualities; the spec's own inference. -/
def Obligations.Dualities : Prop :=
  ∀ (w : Width) (v : Word w.bits),
    slcb v = ~~~(clsb (~~~v)) ∧ stcb v = ~~~(ctsb (~~~v)) ∧ ilcb v = v ^^^ slcb v ∧ ilcb v = ~~~v &&& slcb v ∧
    lowestSetBit v = v ^^^ clsb v ∧ dualitiesHold v = true

/-- 40_bit_primitives.md section 7, the width relation; the spec's own inference. -/
def Obligations.WidthRelation : Prop :=
  (∀ (o : Operation) (v : Word 64), (applyOperation o v).extractLsb' 0 32 = applyOperation o (v.extractLsb' 0 32)) ∧
  (∀ (o : Operation) (x : BitVec 64),
    (valueOn (Instr.of o .w32) x).extractLsb' 0 32 = (valueOn (Instr.of o .w64) x).extractLsb' 0 32 ∧
    (valueOn (Instr.of o .w32) x).extractLsb' 32 32 = 0#32 ∧
    (valueOn (Instr.of o .w64) x).extractLsb' 32 32 = (applyOperation o x).extractLsb' 32 32) ∧
  (valueOn .slcb32 0x00000000FFFFFFFF#64).extractLsb' 32 32 = 0#32 ∧
  (valueOn .slcb64 0x00000000FFFFFFFF#64).extractLsb' 32 32 = 1#32

/-- 40_bit_primitives.md section 7: the first two clauses are the document's property 8. The bit 0 clauses and those on the
other three functions are the spec's own inference ("derived: from rules R72, R75"). -/
def Obligations.Idempotence : Prop :=
  ∀ (w : Width) (v : Word w.bits),
    ctsb (ctsb v) = ctsb v ∧ stcb (stcb v) = stcb v ∧
    (ctsb v).getLsbD 0 = false ∧ (stcb v).getLsbD 0 = true ∧
    countOnes (clsb (clsb v)) = countOnes v - 2 ∧ countOnes (slcb (slcb v)) = min w.bits (countOnes v + 2) ∧
    ilcb (ilcb v) = if ilcb v = 1#w.bits then 2#w.bits else 1#w.bits

/-- 70_reset_and_hazards.md section 1: the ports answer before, during and after any reset of the enclosing system. That an
event outside the block is an operation on `State` is the model's choice (log entry 7). -/
def Obligations.PortsAnswerThroughSystemReset : Prop :=
  (∀ s : State, s.Consistent → s.systemReset = s) ∧
  (∀ (s : State) (r : Request), (s.systemReset.serve r).1 = (s.serve r).1 ∧ s.systemReset.cfg = s.cfg ∧
    (s.request = some r → s.systemReset.response = some (bp s.cfg r.cmd r.x)))
end

