-- ==== Sys2Proof/Laws/Decode.lean ====
section
/-! SUPPORT. The fields of a command and the operation codes, one way and back. -/

namespace Sys2Proof

@[simp] theorem Operation.ofField_toField (o : Operation) : Operation.ofField o.toField = .ok o := by
  cases o <;> rfl

@[simp] theorem Width.ofField_toField (w : Width) : Width.ofField w.toField = w := by
  cases w <;> rfl

@[simp] theorem Width.toField_ofField (w : BitVec 1) : (Width.ofField w).toField = w := by
  unfold Width.ofField
  split
  · next h => exact h.symm
  · next h => exact ((BitVec.eq_zero_or_eq_one w).resolve_left h).symm

@[simp] theorem Instr.of_operation_width (i : Instr) : Instr.of i.operation i.width = i := by
  cases i <;> rfl

@[simp] theorem Instr.operation_of (o : Operation) (w : Width) : (Instr.of o w).operation = o := by
  cases o <;> cases w <;> rfl

@[simp] theorem Instr.width_of (o : Operation) (w : Width) : (Instr.of o w).width = w := by
  cases o <;> cases w <;> rfl

/-- What `op` is read as, with the code it came from. -/
theorem Operation.ofField_ok {op : BitVec 3} {o : Operation} : Operation.ofField op = .ok o ↔ op = o.toField := by
  constructor
  · intro h
    unfold Operation.ofField at h
    (repeat' split at h) <;> first | (cases h; assumption) | cases h
  · rintro rfl
    exact Operation.ofField_toField o

/-- The decoder reads the two fields and nothing else. -/
theorem decodeCmd_ok {cmd : BitVec cmdlen} {i : Instr} :
    decodeCmd cmd = .ok i ↔ opField cmd = i.operation.toField ∧ Width.ofField (widthField cmd) = i.width := by
  unfold decodeCmd
  constructor
  · intro h
    split at h
    · next o ho =>
      cases h
      simpa using Operation.ofField_ok.1 ho
    · cases h
  · rintro ⟨ho, hw⟩
    simp [ho, hw]

end Sys2Proof
end

