-- ==== Sys2Proof/Laws/State.lean ====
section
/-! SUPPORT. One lemma per field per update of `State`, and the ports of a response, so that no proof unfolds a record
update. -/

namespace Sys2Proof.Machine

@[simp] theorem State.settle_cfg (s : State) : s.settle.cfg = s.cfg := rfl
@[simp] theorem State.settle_request (s : State) : s.settle.request = s.request := rfl
@[simp] theorem State.settle_response (s : State) :
    s.settle.response = s.request.map (fun r => bp s.cfg r.cmd r.x) := rfl
@[simp] theorem State.settle_settle (s : State) : s.settle.settle = s.settle := rfl

@[simp] theorem State.systemReset_cfg (s : State) : s.systemReset.cfg = s.cfg := rfl
@[simp] theorem State.systemReset_request (s : State) : s.systemReset.request = s.request := rfl
@[simp] theorem State.systemReset_response (s : State) :
    s.systemReset.response = s.request.map (fun r => bp s.cfg r.cmd r.x) := rfl

@[simp] theorem State.present_cfg (s : State) (r : Request) : (s.present r).cfg = s.cfg := rfl
@[simp] theorem State.present_request (s : State) (r : Request) : (s.present r).request = some r := rfl
@[simp] theorem State.present_response (s : State) (r : Request) :
    (s.present r).response = some (bp s.cfg r.cmd r.x) := rfl

@[simp] theorem State.present_present (s : State) (r q : Request) : (s.present r).present q = s.present q := rfl

@[simp] theorem State.idle_cfg (s : State) : s.idle.cfg = s.cfg := rfl
@[simp] theorem State.idle_request (s : State) : s.idle.request = none := rfl
@[simp] theorem State.idle_response (s : State) : s.idle.response = none := rfl

@[simp] theorem State.respond_cfg (s : State) (p : Response) : (s.respond p).cfg = s.cfg := rfl
@[simp] theorem State.respond_request (s : State) (p : Response) : (s.respond p).request = s.request := rfl
@[simp] theorem State.respond_response (s : State) (p : Response) : (s.respond p).response = some p := rfl
@[simp] theorem State.respond_respond (s : State) (p q : Response) : (s.respond p).respond q = s.respond q := rfl

@[simp] theorem State.reset_cfg : State.reset.cfg = Config.thisHardware := rfl
@[simp] theorem State.reset_request : State.reset.request = none := rfl
@[simp] theorem State.reset_response : State.reset.response = none := rfl
@[simp] theorem thisHardware_extIlsc : Config.thisHardware.extIlsc = false := rfl

@[simp] theorem responseIll_result (y : BitVec xlen) : responseIll (.result y) = 0#1 := rfl
@[simp] theorem responseIll_illegal : responseIll .illegal = 1#1 := rfl
@[simp] theorem responseY_result (y : BitVec xlen) : responseY (.result y) = some y := rfl
@[simp] theorem responseY_illegal : responseY .illegal = none := rfl

end Sys2Proof.Machine
end

