-- ==== Sys2Proof/Laws/Ops.lean ====
section
/-! SUPPORT. What each shared operation can do, said once: a transaction, a meaning, a step. -/

namespace Sys2Proof.Machine

/-- A meaning with a request on the ports and its operation built: the result is driven, the rest stays. -/
theorem transact_built {o : Operation} {w : Width} {f : Word w.bits → Word w.bits} {s : State} {r : Request}
    (hr : s.request = some r) (ho : o.builtIn s.cfg = true) :
    transact o w f s = .next (s.respond (.result (placeResult w (f (selectOperand w r.x))))) := by
  simp [transact, hr, ho]

/-- A meaning with a request on the ports and its operation not built raises `IllegalCommand`. -/
theorem transact_unbuilt {o : Operation} {w : Width} {f : Word w.bits → Word w.bits} {s : State} {r : Request}
    (hr : s.request = some r) (ho : o.builtIn s.cfg = false) :
    transact o w f s = .fault .illegalCommand := by
  simp [transact, hr, ho, raiseIllegalCommand]

/-- A meaning with no request on the ports is refused. -/
theorem transact_undriven {o : Operation} {w : Width} {f : Word w.bits → Word w.bits} {s : State}
    (hr : s.request = none) : transact o w f s = .refused .notARequest := by
  simp [transact, hr]

/-- All that a transaction can do when it answers a next state. -/
theorem transact_next {o : Operation} {w : Width} {f : Word w.bits → Word w.bits} {s t : State}
    (h : transact o w f s = .next t) :
    ∃ r, s.request = some r ∧ o.builtIn s.cfg = true ∧
      t = s.respond (.result (placeResult w (f (selectOperand w r.x)))) := by
  cases hr : s.request with
  | none => simp [transact_undriven hr] at h
  | some r =>
    cases ho : o.builtIn s.cfg with
    | false => simp [transact_unbuilt hr ho] at h
    | true => exact ⟨r, rfl, rfl, by simpa [transact_built hr ho] using h.symm⟩

/-- All that a transaction can do when it is refused: nobody drives the ports. -/
theorem transact_refused {o : Operation} {w : Width} {f : Word w.bits → Word w.bits} {s : State} {e : BlockRefusal}
    (h : transact o w f s = .refused e) : s.request = none := by
  cases hr : s.request with
  | none => rfl
  | some r =>
    cases ho : o.builtIn s.cfg with
    | false => simp [transact_unbuilt hr ho] at h
    | true => simp [transact_built hr ho] at h

@[simp] theorem hostOutcome_next (s : State) : hostOutcome (.next s) = .next s := rfl
@[simp] theorem hostOutcome_fault (e : Fault) : hostOutcome (.fault e) = .fault e := rfl
@[simp] theorem hostOutcome_refused (r : BlockRefusal) : hostOutcome (.refused r) = .refused (.block r) := rfl

/-- The block's outcome behind a next state of the host's type. -/
theorem hostOutcome_eq_next {o : BlockOutcome} {t : State} : hostOutcome o = .next t ↔ o = .next t := by
  cases o <;> simp

/-- The block's outcome behind a refusal of the host's type: a refusal of the block, never the host's placeholder. -/
theorem hostOutcome_eq_refused {o : BlockOutcome} {e : Refusal} :
    hostOutcome o = .refused e ↔ ∃ r, o = .refused r ∧ e = .block r := by
  cases o with
  | refused r => exact ⟨fun h => ⟨r, rfl, by simpa using h.symm⟩, by rintro ⟨_, h, rfl⟩; cases h; rfl⟩
  | _ => simp

/-- Every meaning is the shared transaction at the instruction's own operation and width. -/
theorem exec_eq_transact (i : Instr) (s : State) :
    exec i s = hostOutcome (transact i.operation i.width (applyOperation i.operation) s) := by
  cases i <;> rfl

theorem builtIn_core {o : Operation} (cfg : Config) (ho : o ≠ .ilsc) : o.builtIn cfg = true := by
  cases o <;> first | rfl | exact absurd rfl ho

/-- A step with no request on the ports. -/
theorem step_undriven {s : State} (h : s.request = none) : step s = .refused (.block .notARequest) := by
  simp [step, h]

/-- A step on a reserved `op`. -/
theorem step_reserved {s : State} {r : Request} {e : DecodeError} (h : s.request = some r)
    (hd : decodeCmd r.cmd = .error e) : step s = .fault .illegalCommand := by
  simp [step, h, hd, raiseIllegalCommand]

/-- All that a step can do when it answers a next state: it answers a request whose command is an instruction of the build,
by driving the response ports. -/
theorem step_next {s t : State} (h : step s = .next t) :
    ∃ r i, s.request = some r ∧ decodeCmd r.cmd = .ok i ∧ i.wf s.cfg = true ∧
      t = s.respond (.result (placeResult i.width (applyOperation i.operation (selectOperand i.width r.x)))) := by
  cases hr : s.request with
  | none => simp [step_undriven hr] at h
  | some r =>
    cases hd : decodeCmd r.cmd with
    | error e => simp [step_reserved hr hd] at h
    | ok i =>
      simp only [step, hr, hd, exec_eq_transact] at h
      obtain ⟨r', hr', hb, ht⟩ := transact_next (hostOutcome_eq_next.1 h)
      obtain rfl : r = r' := Option.some.inj (hr.symm.trans hr')
      exact ⟨r, i, rfl, hd, hb, ht⟩

end Sys2Proof.Machine
end

