-- ==== Sys2Proof/Laws/PerInstr.lean ====
section
/-! SUPPORT. Statements for every instruction, one lemma per constructor. -/

namespace Sys2Proof.Laws.CommandEncoding

/-- The command of an instruction carries its width in `cmd[3]` and its operation in `cmd[2:0]` (30_encoding.md rules R45 to
R47), and the decoder reads it back. -/
def Statement (i : Instr) : Prop :=
  widthField (encodeCmd i) = i.width.toField ∧ opField (encodeCmd i) = i.operation.toField ∧
    decodeCmd (encodeCmd i) = .ok i

theorem clsb32 : Statement .clsb32 := ⟨rfl, rfl, rfl⟩
theorem slcb32 : Statement .slcb32 := ⟨rfl, rfl, rfl⟩
theorem ctsb32 : Statement .ctsb32 := ⟨rfl, rfl, rfl⟩
theorem stcb32 : Statement .stcb32 := ⟨rfl, rfl, rfl⟩
theorem ilcb32 : Statement .ilcb32 := ⟨rfl, rfl, rfl⟩
theorem ilsc32 : Statement .ilsc32 := ⟨rfl, rfl, rfl⟩
theorem clsb64 : Statement .clsb64 := ⟨rfl, rfl, rfl⟩
theorem slcb64 : Statement .slcb64 := ⟨rfl, rfl, rfl⟩
theorem ctsb64 : Statement .ctsb64 := ⟨rfl, rfl, rfl⟩
theorem stcb64 : Statement .stcb64 := ⟨rfl, rfl, rfl⟩
theorem ilcb64 : Statement .ilcb64 := ⟨rfl, rfl, rfl⟩
theorem ilsc64 : Statement .ilsc64 := ⟨rfl, rfl, rfl⟩

end Sys2Proof.Laws.CommandEncoding
end

