-- ==== Sys2Proof/Laws/Word.lean ====
section
/-! SUPPORT. Increment, decrement and the reference functions, bit by bit at any width (40_bit_primitives.md rules R61, R62,
00_scope.md section 7). Proofs about the six functions cite these and unfold no arithmetic. -/

namespace Sys2Proof.Laws

open Sys2Proof.Machine

/-- The scan behind the reference functions: it finds the least position that holds a 1. -/
theorem scan_eq_some {W i : Nat} {v : Word W} :
    (List.range W).find? (fun i => v.getLsbD i) = some i ↔
      i < W ∧ v.getLsbD i = true ∧ ∀ j < i, v.getLsbD j = false := by
  simp only [List.find?_range_eq_some, List.mem_range, Bool.not_eq_true']
  tauto

/-- The scan finds nothing exactly in the zero word. -/
theorem scan_eq_none {W : Nat} {v : Word W} :
    (List.range W).find? (fun i => v.getLsbD i) = none ↔ v = 0#W := by
  rw [List.find?_eq_none]
  constructor
  · intro h
    ext i hi
    simpa [BitVec.getLsbD_eq_getElem hi] using h i (List.mem_range.2 hi)
  · rintro rfl
    simp

/-- A nonzero word has its least significant 1 at `trailingZeros`, with zeros below. -/
theorem trailingZeros_spec {W : Nat} {v : Word W} (hv : v ≠ 0#W) :
    trailingZeros v < W ∧ v.getLsbD (trailingZeros v) = true ∧ ∀ j < trailingZeros v, v.getLsbD j = false := by
  unfold trailingZeros
  cases h : (List.range W).find? (fun i => v.getLsbD i) with
  | none => exact absurd (scan_eq_none.1 h) hv
  | some i => exact scan_eq_some.1 h

/-- `trailingZeros_W(zero_W) = W`. -/
@[simp] theorem trailingZeros_zero (W : Nat) : trailingZeros (0#W) = W := by
  rw [trailingZeros, scan_eq_none.2 rfl, Option.getD_none]

theorem trailingZeros_le {W : Nat} (v : Word W) : trailingZeros v ≤ W := by
  by_cases hv : v = 0#W
  · simp [hv]
  · exact (trailingZeros_spec hv).1.le

/-- Every bit below `trailingZeros` is 0, the zero word included. -/
theorem getLsbD_lt_trailingZeros {W i : Nat} (v : Word W) (h : i < trailingZeros v) : v.getLsbD i = false := by
  by_cases hv : v = 0#W
  · simp [hv]
  · exact (trailingZeros_spec hv).2.2 i h

/-- The bit at `trailingZeros`, where there is one, is 1. -/
theorem getLsbD_trailingZeros {W : Nat} (v : Word W) (h : trailingZeros v < W) :
    v.getLsbD (trailingZeros v) = true := by
  refine (trailingZeros_spec (v := v) ?_).2.1
  rintro rfl
  simp at h

/-- A word with zeros below `i` and a 1 at `i` has `i` trailing zeros. -/
theorem trailingZeros_unique {W i : Nat} {v : Word W} (hi : v.getLsbD i = true)
    (hlow : ∀ j < i, v.getLsbD j = false) : trailingZeros v = i := by
  have hW : i < W := BitVec.lt_of_getLsbD hi
  simp [trailingZeros, scan_eq_some.2 ⟨hW, hi, hlow⟩]

theorem trailingOnes_le {W : Nat} (v : Word W) : trailingOnes v ≤ W := trailingZeros_le _

/-- Every bit below `trailingOnes` is 1. -/
theorem getLsbD_lt_trailingOnes {W i : Nat} (v : Word W) (h : i < trailingOnes v) : v.getLsbD i = true := by
  have hi : i < W := h.trans_le (trailingOnes_le v)
  simpa [hi] using getLsbD_lt_trailingZeros (~~~v) h

/-- The bit at `trailingOnes`, where there is one, is 0. -/
theorem getLsbD_trailingOnes {W : Nat} (v : Word W) : v.getLsbD (trailingOnes v) = false := by
  by_cases h : trailingZeros (~~~v) < W
  · have hbit := getLsbD_trailingZeros (~~~v) h
    simpa [trailingOnes, h] using hbit
  · exact BitVec.getLsbD_of_ge _ _ (Nat.le_of_not_lt h)

/-- `trailingOnes` is `W` exactly in the word of all ones. -/
theorem trailingOnes_eq_width {W : Nat} {v : Word W} : trailingOnes v = W ↔ v = Word.ones W := by
  constructor
  · intro h
    ext i hi
    have hbit := getLsbD_lt_trailingOnes v (show i < trailingOnes v by omega)
    simpa [BitVec.getLsbD_eq_getElem hi] using hbit
  · rintro rfl
    simp [trailingOnes]

/-- `lowestSetBit` bit by bit: 1 only at `trailingZeros`. -/
theorem getLsbD_lowestSetBit {W i : Nat} (v : Word W) :
    (lowestSetBit v).getLsbD i = decide (i = trailingZeros v ∧ i < W) := by
  unfold lowestSetBit trailingZeros
  cases h : (List.range W).find? (fun i => v.getLsbD i) with
  | none => simp; omega
  | some k =>
    have := (scan_eq_some.1 h).1
    simp only [BitVec.getLsbD_twoPow, Option.getD_some]
    by_cases hk : k = i
    · subst hk; simp [this]
    · simp [hk, Ne.symm hk]

/-- The zero word has no lowest set bit. -/
@[simp] theorem lowestSetBit_zero (W : Nat) : lowestSetBit (0#W) = 0#W := by
  rw [lowestSetBit, scan_eq_none.2 rfl]

/-- `lowmask` bit by bit. -/
theorem getLsbD_lowmask {W n i : Nat} : (lowmask W n).getLsbD i = decide (i < n ∧ i < W) := by
  simp [lowmask, BitVec.getLsbD_ofNat, Nat.testBit_two_pow_sub_one, Bool.and_comm]

/-- The carry into bit `i + 1` of `v + 1`: every bit up to `i` is 1. -/
theorem carry_one {W : Nat} (v : Word W) (hW : 0 < W) :
    ∀ i, BitVec.carry (i + 1) v 1#W false = true ↔ ∀ j ≤ i, v.getLsbD j = true
  | 0 => by simp [BitVec.carry_succ, Bool.atLeastTwo, hW]
  | i + 1 => by
    rw [BitVec.carry_succ]
    have ih := carry_one v hW i
    have h1 : (1#W).getLsbD (i + 1) = false := by simp [BitVec.getLsbD_one]
    simp only [h1, Bool.atLeastTwo, Bool.and_false, Bool.false_and, Bool.false_or, Bool.or_false, Bool.and_eq_true, ih]
    constructor
    · rintro ⟨ha, hb⟩ j hj
      rcases Nat.lt_or_ge i j with h | h
      · exact (show j = i + 1 by omega) ▸ ha
      · exact hb j h
    · exact fun h => ⟨h _ le_rfl, fun j hj => h j (by omega)⟩

/-- `v + 1` bit by bit (R61): zeros below the lowest clear bit, a 1 there, `v` above. -/
theorem getLsbD_inc {W i : Nat} (v : Word W) (hi : i < W) :
    v.inc.getLsbD i = if i < trailingOnes v then false else if i = trailingOnes v then true else v.getLsbD i := by
  have hadd : v.inc.getLsbD i = (v.getLsbD i ^^ ((1#W).getLsbD i ^^ BitVec.carry i v 1#W false)) := by
    simp [Word.inc, BitVec.getLsbD_add hi]
  cases i with
  | zero =>
    have h0 : (v + 1#W).getLsbD 0 = !v.getLsbD 0 := by
      have : v.inc.getLsbD 0 = !v.getLsbD 0 := by
        rw [hadd]; simp [hi]
      simpa [Word.inc] using this
    have h0' : v.inc.getLsbD 0 = !v.getLsbD 0 := h0
    rw [h0']
    by_cases ht : 0 < trailingOnes v
    · simp [ht, getLsbD_lt_trailingOnes v ht]
    · have hz : trailingOnes v = 0 := by omega
      have := getLsbD_trailingOnes v
      rw [hz] at this
      simp [hz, this]
  | succ n =>
    have hc : BitVec.carry (n + 1) v 1#W false = decide (n < trailingOnes v) := by
      rw [Bool.eq_iff_iff, carry_one v (by omega), decide_eq_true_iff]
      constructor
      · intro h
        by_contra hn
        have := h _ (Nat.le_of_not_lt hn)
        simp [getLsbD_trailingOnes] at this
      · exact fun h j hj => getLsbD_lt_trailingOnes v (by omega)
    rw [hadd, hc]
    simp only [show (1#W).getLsbD (n + 1) = false by simp [BitVec.getLsbD_one], Bool.false_xor]
    by_cases h1 : n + 1 < trailingOnes v
    · have h2 : n < trailingOnes v := by omega
      simp [h1, h2, getLsbD_lt_trailingOnes v h1]
    · by_cases h2 : n + 1 = trailingOnes v
      · have h3 : n < trailingOnes v := by omega
        have := getLsbD_trailingOnes v
        rw [← h2] at this
        simp only [← h2, this]
        simp
      · have h3 : ¬ n < trailingOnes v := by omega
        simp [h1, h2, h3]

/-- Decrement is increment of the complement, complemented (R86's two identities, one at a time). -/
theorem dec_eq_not_inc_not {W : Nat} (v : Word W) : v.dec = ~~~(Word.inc (~~~v)) := by
  simp only [Word.dec, Word.inc]
  rw [← BitVec.neg_eq_not_add, BitVec.not_neg]

theorem not_dec {W : Nat} (v : Word W) : ~~~v.dec = Word.inc (~~~v) := by simp [dec_eq_not_inc_not]

theorem not_inc {W : Nat} (v : Word W) : ~~~v.inc = Word.dec (~~~v) := by simp [dec_eq_not_inc_not]

/-- `v - 1` bit by bit (R62): ones below the lowest set bit, a 0 there, `v` above; all ones for zero. -/
theorem getLsbD_dec {W i : Nat} (v : Word W) (hi : i < W) :
    v.dec.getLsbD i = if i < trailingZeros v then true else if i = trailingZeros v then false else v.getLsbD i := by
  have ht : trailingOnes (~~~v) = trailingZeros v := by simp [trailingOnes]
  rw [dec_eq_not_inc_not, BitVec.getLsbD_not, getLsbD_inc _ hi, ht]
  split
  · simp [hi]
  · split <;> simp [hi]

end Sys2Proof.Laws
end

