-- ==== Sys2Proof/Tests/Slice0.lean ====
section
/-! SUPPORT. Tests: expected values are those of 95_test_vectors.md and of the encoding in 30_encoding.md. Then one witness
for each hypothesis of a statement. -/

namespace Sys2Proof.Tests

open Sys2Proof.Machine

/-- A build with the extension, nothing on the ports. -/
def extended : State := { State.reset with cfg := { extIlsc := true } }

/-- This hardware with a request on the ports. -/
def held (cmd : BitVec 4) (x : BitVec 64) : State := State.reset.present ⟨cmd, x⟩

/-- A build with the extension and a request on the ports. -/
def heldExt (cmd : BitVec 4) (x : BitVec 64) : State := extended.present ⟨cmd, x⟩

/-- One transaction in the spec's written form. -/
def shown (s : State) (cmd : BitVec 4) (x : BitVec 64) : Option String :=
  (s.serve ⟨cmd, x⟩).1.map (showTransaction ⟨cmd, x⟩)

/-! One step per instruction, twice: 95_test_vectors.md, the section named. -/

-- section 2.3
theorem test_clsb32_first : shown State.reset 0x0#4 0xFFFFFFFFFFFFFFFF#64 = some "0:FFFFFFFFFFFFFFFF -> 0:00000000FFFFFFFE" := by decide
-- section 2.1, minimum
theorem test_clsb32_second : shown State.reset 0x0#4 0x0000000080000000#64 = some "0:0000000080000000 -> 0:0000000000000000" := by decide
-- section 2.3
theorem test_slcb32_first : shown State.reset 0x1#4 0x00000000FFFFFFFF#64 = some "1:00000000FFFFFFFF -> 0:00000000FFFFFFFF" := by decide
-- section 2.3
theorem test_slcb32_second : shown State.reset 0x1#4 0xFFFFFFFF00000000#64 = some "1:FFFFFFFF00000000 -> 0:0000000000000001" := by decide
-- section 2.3
theorem test_ctsb32_first : shown State.reset 0x2#4 0x12345678FFFFFFFF#64 = some "2:12345678FFFFFFFF -> 0:0000000000000000" := by decide
-- section 2.1
theorem test_ctsb32_second : shown State.reset 0x2#4 0x00000000DEADBEEF#64 = some "2:00000000DEADBEEF -> 0:00000000DEADBEE0" := by decide
-- section 2.3
theorem test_stcb32_first : shown State.reset 0x3#4 0xFFFFFFFFFFFFFFFF#64 = some "3:FFFFFFFFFFFFFFFF -> 0:00000000FFFFFFFF" := by decide
-- section 2.1
theorem test_stcb32_second : shown State.reset 0x3#4 0x0000000012345678#64 = some "3:0000000012345678 -> 0:000000001234567F" := by decide
-- section 2.3
theorem test_ilcb32_first : shown State.reset 0x4#4 0xDEADBEEF000000A7#64 = some "4:DEADBEEF000000A7 -> 0:0000000000000008" := by decide
-- section 2.1, maximum
theorem test_ilcb32_second : shown State.reset 0x4#4 0x000000007FFFFFFF#64 = some "4:000000007FFFFFFF -> 0:0000000080000000" := by decide
-- section 2.2
theorem test_clsb64_first : shown State.reset 0x8#4 0xDEADBEEFCAFEF00D#64 = some "8:DEADBEEFCAFEF00D -> 0:DEADBEEFCAFEF00C" := by decide
-- section 2.2
theorem test_clsb64_second : shown State.reset 0x8#4 0x0000000100000000#64 = some "8:0000000100000000 -> 0:0000000000000000" := by decide
-- section 2.3
theorem test_slcb64_first : shown State.reset 0x9#4 0x00000000FFFFFFFF#64 = some "9:00000000FFFFFFFF -> 0:00000001FFFFFFFF" := by decide
-- section 2.2, maximum
theorem test_slcb64_second : shown State.reset 0x9#4 0x7FFFFFFFFFFFFFFF#64 = some "9:7FFFFFFFFFFFFFFF -> 0:FFFFFFFFFFFFFFFF" := by decide
-- section 2.2
theorem test_ctsb64_first : shown State.reset 0xA#4 0x0123456789ABCDEF#64 = some "A:0123456789ABCDEF -> 0:0123456789ABCDE0" := by decide
-- section 1, S6
theorem test_ctsb64_second : shown State.reset 0xA#4 0xFFFFFFFFFFFFFFFF#64 = some "A:FFFFFFFFFFFFFFFF -> 0:0000000000000000" := by decide
-- section 2.3
theorem test_stcb64_first : shown State.reset 0xB#4 0xFFFFFFFF00000000#64 = some "B:FFFFFFFF00000000 -> 0:FFFFFFFFFFFFFFFF" := by decide
-- section 1, S8
theorem test_stcb64_second : shown State.reset 0xB#4 0x0000000000000000#64 = some "B:0000000000000000 -> 0:FFFFFFFFFFFFFFFF" := by decide
-- section 2.3
theorem test_ilcb64_first : shown State.reset 0xC#4 0x00000000FFFFFFFF#64 = some "C:00000000FFFFFFFF -> 0:0000000100000000" := by decide
-- section 1, S9
theorem test_ilcb64_second : shown State.reset 0xC#4 0xFFFFFFFFFFFFFFFF#64 = some "C:FFFFFFFFFFFFFFFF -> 0:0000000000000000" := by decide
-- section 2.6
theorem test_ilsc32_first : shown extended 0x5#4 0x00000000000000A8#64 = some "5:00000000000000A8 -> 0:00000000FFFFFFF7" := by decide
-- section 2.6
theorem test_ilsc32_second : shown extended 0x5#4 0x0000000000000000#64 = some "5:0000000000000000 -> 0:00000000FFFFFFFF" := by decide
-- section 2.6
theorem test_ilsc64_first : shown extended 0xD#4 0x00000000000000A8#64 = some "D:00000000000000A8 -> 0:FFFFFFFFFFFFFFF7" := by decide
-- section 2.6
theorem test_ilsc64_second : shown extended 0xD#4 0x0000000100000000#64 = some "D:0000000100000000 -> 0:FFFFFFFEFFFFFFFF" := by decide

/-! The reserved commands (section 2.8); this hardware has no extension. -/

theorem test_reserved_6 : shown State.reset 0x6#4 0xFFFFFFFFFFFFFFFF#64 = some "6:FFFFFFFFFFFFFFFF -> 1:----------------" := by
  decide
theorem test_reserved_f : shown State.reset 0xF#4 0x1234#64 = some "F:0000000000001234 -> 1:----------------" := by decide
theorem test_ilsc32_absent : shown State.reset 0x5#4 0xA8#64 = some "5:00000000000000A8 -> 1:----------------" := by decide
theorem test_ilsc64_absent : shown State.reset 0xD#4 0xA8#64 = some "D:00000000000000A8 -> 1:----------------" := by decide
-- section 3, P5, step 3: the transaction after a reserved command
theorem test_after_illegal :
    shown (State.reset.serve ⟨0x7#4, 0xA0#64⟩).2 0x0#4 0xA0#64 = some "0:00000000000000A0 -> 0:0000000000000080" := by decide

/-! The response ports before any step (70_reset_and_hazards.md section 1): section 1, S10, and section 2.8. -/

theorem test_ports_answer_at_once : (held 0x4#4 0xA7#64).response = some (.result 8#64) := by decide
theorem test_ports_show_ill_at_once : (held 0x6#4 0xFFFFFFFFFFFFFFFF#64).response = some .illegal := by decide
theorem test_ports_through_reset : (held 0xB#4 0#64).systemReset.response = some (.result 0xFFFFFFFFFFFFFFFF#64) := by decide

/-! Decoding, each command written out bit by bit: `w`, then `op` (30_encoding.md section 3). -/

theorem test_decode_clsb32 : decodeCmd 0b0000#4 = .ok .clsb32 := by decide
theorem test_decode_slcb32 : decodeCmd 0b0001#4 = .ok .slcb32 := by decide
theorem test_decode_ctsb32 : decodeCmd 0b0010#4 = .ok .ctsb32 := by decide
theorem test_decode_stcb32 : decodeCmd 0b0011#4 = .ok .stcb32 := by decide
theorem test_decode_ilcb32 : decodeCmd 0b0100#4 = .ok .ilcb32 := by decide
theorem test_decode_ilsc32 : decodeCmd 0b0101#4 = .ok .ilsc32 := by decide
theorem test_decode_clsb64 : decodeCmd 0b1000#4 = .ok .clsb64 := by decide
theorem test_decode_slcb64 : decodeCmd 0b1001#4 = .ok .slcb64 := by decide
theorem test_decode_ctsb64 : decodeCmd 0b1010#4 = .ok .ctsb64 := by decide
theorem test_decode_stcb64 : decodeCmd 0b1011#4 = .ok .stcb64 := by decide
theorem test_decode_ilcb64 : decodeCmd 0b1100#4 = .ok .ilcb64 := by decide
theorem test_decode_ilsc64 : decodeCmd 0b1101#4 = .ok .ilsc64 := by decide
theorem test_decode_reserved_6 : decodeCmd 0b0110#4 = .error (.reservedOperation 6#3) := by decide
theorem test_decode_reserved_7 : decodeCmd 0b0111#4 = .error (.reservedOperation 7#3) := by decide
theorem test_decode_reserved_e : decodeCmd 0b1110#4 = .error (.reservedOperation 6#3) := by decide
theorem test_decode_reserved_f : decodeCmd 0b1111#4 = .error (.reservedOperation 7#3) := by decide
theorem test_table_word : decodeTableWord 8 0xC = some .ilcb64 := by decide
theorem test_table_word_wide : decodeTableWord 8 0x1C = none := by decide
theorem test_fetch_word : (State.reset.withFetchWord 8 0xB).request = some ⟨0xB#4, 0#64⟩ := by decide
theorem test_fetch_keeps_operand : ((held 0x0#4 7#64).withFetchWord 8 0xB).request = some ⟨0xB#4, 7#64⟩ := by decide
theorem test_fetch_no_command : ((held 0x0#4 7#64).withFetchWord 8 0x10).request = none := by decide

/-! Ill-formed terms, one for each check of WellFormed.lean. -/

theorem test_wf_core : Instr.wf Config.thisHardware .clsb32 = true := by decide
theorem test_wf_extension_absent : Instr.wf Config.thisHardware .ilsc64 = false := by decide
theorem test_wf_command_too_wide : requestWf 16 0 = false := by decide
theorem test_wf_operand_too_wide : requestWf 0 (2 ^ 64) = false := by decide
theorem test_wf_literal_too_wide : Written.wf ⟨.clsb32, 2 ^ 32⟩ = false := by decide
theorem test_wf_literal_fits_at_64 : Written.wf ⟨.clsb64, 2 ^ 32⟩ = true := by decide

/-! The written form (30_encoding.md section 6). -/

theorem test_written_hex : readWritten "ILCB32 0x000000A7" = some ⟨.ilcb32, 167⟩ := by decide
theorem test_written_binary : readWritten "CTSB32 0b1010_0111" = some ⟨.ctsb32, 167⟩ := by decide
theorem test_written_decimal : readWritten "CLSB32 4294967295" = some ⟨.clsb32, 4294967295⟩ := by decide
theorem test_written_too_large : readWritten "CLSB32 4294967296" = none := by decide
theorem test_written_short_hex : readWritten "CLSB64 0x000000A7" = none := by decide
theorem test_written_shown : showWritten ⟨.slcb64, 167⟩ = "SLCB64 0x00000000000000A7" := by decide
theorem test_written_encoded : (Written.assemble ⟨.ilcb32, 167⟩).map showRequest = some "4:00000000000000A7" := by decide
theorem test_document_name : instrOfName "clearTrailingSetBits" .w64 = some .ctsb64 := by decide
theorem test_requester_name : instrOfName "isolate_lowest_clear_bit" .w32 = some .ilcb32 := by decide

/-! The cross-checks between instructions on rows of 95_test_vectors.md section 2.4. -/

theorem test_dualities_32 : ([0xDEADBEEF#32, 0xA7#32, 0xA8#32, 0#32, 0xFFFFFFFF#32].all dualitiesHold) = true := by decide
theorem test_dualities_64 : ([0x0123456789ABCDEF#64, 0#64, 0xFFFFFFFFFFFFFFFF#64].all dualitiesHold) = true := by decide

/-! The reference functions and the signed reading (00_scope.md sections 4 and 7, 95_test_vectors.md section 2.4). -/

theorem test_trailing_ones : trailingOnes 0xA7#32 = 3 := by decide
theorem test_trailing_zeros_minimum : trailingZeros 0x80000000#32 = 31 := by decide
theorem test_lowmask_full : lowmask 32 32 = 0xFFFFFFFF#32 := by decide
theorem test_lowest_set_bit : lowestSetBit 0xA8#32 = 0xA8#32 &&& (0#32 - 0xA8#32) := by decide
theorem test_highest_set_bit : highestSetBitIndex 0xA8#32 = 7 := by decide
theorem test_highest_set_bit_zero : highestSetBitIndex 0#32 = -1 := by decide
theorem test_signed : Word.signedValue 0xFFFFFFFE#32 = -2 := by decide

/-! Witnesses: a concrete state and operands that meet the hypotheses of each statement. -/

theorem witness_Clsb32Result : (held 0x0#4 0xA7#64).request = some ⟨0x0#4, 0xA7#64⟩ := by decide
theorem witness_Slcb32Result : (held 0x1#4 0xA7#64).request = some ⟨0x1#4, 0xA7#64⟩ := by decide
theorem witness_Ctsb32Result : (held 0x2#4 0xA7#64).request = some ⟨0x2#4, 0xA7#64⟩ := by decide
theorem witness_Stcb32Result : (held 0x3#4 0xA7#64).request = some ⟨0x3#4, 0xA7#64⟩ := by decide
theorem witness_Ilcb32Result : (held 0x4#4 0xA7#64).request = some ⟨0x4#4, 0xA7#64⟩ := by decide
theorem witness_Clsb64Result : (held 0x8#4 0xA7#64).request = some ⟨0x8#4, 0xA7#64⟩ := by decide
theorem witness_Slcb64Result : (held 0x9#4 0xA7#64).request = some ⟨0x9#4, 0xA7#64⟩ := by decide
theorem witness_Ctsb64Result : (held 0xA#4 0xA7#64).request = some ⟨0xA#4, 0xA7#64⟩ := by decide
theorem witness_Stcb64Result : (held 0xB#4 0xA7#64).request = some ⟨0xB#4, 0xA7#64⟩ := by decide
theorem witness_Ilcb64Result : (held 0xC#4 0xA7#64).request = some ⟨0xC#4, 0xA7#64⟩ := by decide
theorem witness_Ilsc32Result : (heldExt 0x5#4 0xA8#64).cfg.extIlsc = true ∧ (heldExt 0x5#4 0xA8#64).request = some ⟨0x5#4, 0xA8#64⟩ := by
  decide
theorem witness_Ilsc64Result : (heldExt 0xD#4 0xA8#64).cfg.extIlsc = true ∧ (heldExt 0xD#4 0xA8#64).request = some ⟨0xD#4, 0xA8#64⟩ := by
  decide

theorem witness_ExtensionCommands :
    ((held 0x5#4 0#64).cfg.extIlsc = false ∧ (held 0x5#4 0#64).request = some ⟨0x5#4, 0#64⟩) ∧
      extended.cfg.extIlsc = true := by decide
theorem witness_ReservedCommandsRaise : 0x6#4 ∈ [0x6#4, 0x7#4, 0xE#4, 0xF#4] ∧ 0xF#4 ∈ [0x6#4, 0x7#4, 0xE#4, 0xF#4] := by decide
theorem witness_EveryRequestHasAResponse : (held 0xF#4 1#64).cfg = State.reset.cfg := by decide
theorem witness_CommandMap : classify Config.thisHardware 0x5#4 = .reserved ∧ classify extended.cfg 0x6#4 = .reserved := by
  decide
theorem witness_CommandFields :
    (5#3, Operation.ilsc) ∈ [(0#3, Operation.clsb), (1#3, .slcb), (2#3, .ctsb), (3#3, .stcb), (4#3, .ilcb), (5#3, .ilsc)] ∧
      (6#3 = 6#3 ∨ 6#3 = 7#3) := by decide
theorem witness_EncodeOfDecodedCommand : decodeCmd 0xD#4 = .ok .ilsc64 := by decide
theorem witness_WrittenRequestRoundTrip :
    Written.wf ⟨.clsb32, 2 ^ 32 - 1⟩ = true ∧ Written.wf ⟨.clsb32, 2 ^ 32⟩ = false ∧
      (Request.mk 0x4#4 0xDEADBEEF000000A7#64).disassemble = .ok ⟨.ilcb32, 167⟩ := by decide
theorem witness_WrittenTextRoundTrip : Written.wf ⟨.ilcb64, 2 ^ 64 - 1⟩ = true := by decide
theorem witness_OperandSelection :
    Operation.ofField ((0x4#4).extractLsb' 0 3) = .ok .ilcb ∧ Operation.ilcb.builtIn State.reset.cfg = true ∧
      (0x4#4).getLsbD 3 = false ∧ (0xC#4).getLsbD 3 = true ∧
      (0xDEADBEEF000000A7#64).extractLsb' 0 32 = (0x00000000000000A7#64).extractLsb' 0 32 := by decide
theorem witness_ResultPlacement_field :
    Operation.ofField ((0x3#4).extractLsb' 0 3) = .ok .stcb ∧ (0x3#4).getLsbD 3 = false ∧
      Operation.ofField ((0xB#4).extractLsb' 0 3) = .ok .stcb ∧ (0xB#4).getLsbD 3 = true := by decide
theorem witness_ResultPlacement_w32 : State.reset.Answers 0x3#4 0#64 0x00000000FFFFFFFF#64 := by
  unfold State.Answers; decide
theorem witness_ResultPlacement_w64 : State.reset.Answers 0xB#4 0#64 0xFFFFFFFFFFFFFFFF#64 := by
  unfold State.Answers; decide
theorem witness_CoreInstructionsNeverRaise :
    isCore .ilcb64 = true ∧ (held 0xC#4 0#64).request = some ⟨0xC#4, 0#64⟩ := by decide
theorem witness_IllegalCommandEffect :
    isIllegal State.reset.cfg 0x6#4 ∧ isIllegal State.reset.cfg 0xF#4 ∧ isIllegal State.reset.cfg 0x5#4 ∧
      ¬ isIllegal State.reset.cfg 0x4#4 ∧ ¬ isIllegal extended.cfg 0x5#4 := by unfold isIllegal; decide
theorem witness_StepRefinesTransactionFunction :
    (held 0x4#4 0xA7#64).request = some ⟨0x4#4, 0xA7#64⟩ ∧ bp State.reset.cfg 0x4#4 0xA7#64 = .result 8#64 ∧
      bp State.reset.cfg 0x5#4 0xA7#64 = .illegal := by decide
theorem witness_SessionIndependence :
    ([(1, Request.mk 0x0#4 1#64), (2, Request.mk 0x7#4 2#64)] : List (Requester × Request)).Perm
      [(2, Request.mk 0x7#4 2#64), (1, Request.mk 0x0#4 1#64)] ∧
    ([(1, Request.mk 0x0#4 1#64)] : List (Requester × Request)).Sublist
      [(2, Request.mk 0x7#4 2#64), (1, Request.mk 0x0#4 1#64)] ∧
    ([(1, Request.mk 0x0#4 1#64)] : List (Requester × Request)).filter (fun q => q.1 == 1) =
      ([(2, Request.mk 0x7#4 2#64), (1, Request.mk 0x0#4 1#64)] : List (Requester × Request)).filter (fun q => q.1 == 1) := by
  decide
theorem witness_StepKeepsPortsConsistent :
    (held 0x4#4 0xA7#64).Consistent ∧
      step (held 0x4#4 0xA7#64) = .next ((held 0x4#4 0xA7#64).respond (.result 8#64)) := ⟨rfl, rfl⟩
theorem witness_PortsAnswerThroughSystemReset :
    (held 0x6#4 0#64).Consistent ∧ (held 0x6#4 0#64).request = some ⟨0x6#4, 0#64⟩ := ⟨rfl, rfl⟩
theorem witness_ResetState : (held 0x4#4 0xA7#64).cfg = Config.thisHardware := by decide
theorem witness_RepeatingARequestChangesNothing :
    step (held 0x9#4 0#64) = .next ((held 0x9#4 0#64).respond (.result 1#64)) := rfl
theorem witness_StepRunsDecodedInstruction :
    (held 0xA#4 0#64).request = some ⟨0xA#4, 0#64⟩ ∧ decodeCmd 0xA#4 = .ok .ctsb64 := by decide
theorem witness_FetchWordRunsItsInstruction : decodeTableWord 8 0xD = some .ilsc64 := by decide
theorem witness_InstructionFrame :
    exec .slcb64 (held 0x9#4 0#64) = .next ((held 0x9#4 0#64).respond (.result 1#64)) := rfl
theorem witness_EarlierResponseNeverMatters :
    (held 0x9#4 0#64).cfg = ((held 0x9#4 0#64).respond .illegal).cfg ∧
      (held 0x9#4 0#64).request = ((held 0x9#4 0#64).respond .illegal).request := by decide
theorem witness_StepOutcomes_refused :
    State.reset.request = none ∧ step State.reset = .refused (.block .notARequest) ∧ exec .ilsc64 State.reset = .refused (.block .notARequest) :=
  ⟨rfl, rfl, rfl⟩
theorem witness_StepOutcomes_fault : (held 0xE#4 0#64).request = some ⟨0xE#4, 0#64⟩ ∧ isIllegal State.reset.cfg 0xE#4 := by
  unfold isIllegal; decide
theorem witness_StepOutcomes_fault_reason : step (held 0xE#4 0#64) = .fault .illegalCommand := rfl
theorem witness_StepOutcomes_next : (held 0xC#4 0#64).request = some ⟨0xC#4, 0#64⟩ ∧ ¬ isIllegal State.reset.cfg 0xC#4 := by
  unfold isIllegal; decide
theorem witness_ClsbBitByBit : (0x80000000#32 : Word Width.w32.bits) ≠ 0#32 ∧ trailingZeros 0x80000000#32 < 32 := by decide
theorem witness_SlcbBitByBit : (0x7FFFFFFF#32 : Word Width.w32.bits) ≠ Word.ones 32 := by decide
theorem witness_CtsbBitByBit :
    (0xA8#32).getLsbD 0 = false ∧ (0xFFFFFFFF#32 : Word Width.w32.bits) = Word.ones 32 ∧ 0 < trailingOnes 0xA7#32 := by decide
theorem witness_StcbBitByBit : (0xA7#32).getLsbD 0 = true ∧ (0x0#32 : Word Width.w32.bits) = 0#32 := by decide
theorem witness_IlcbBitByBit : (0x7FFFFFFF#32 : Word Width.w32.bits) ≠ Word.ones 32 ∧ trailingOnes 0x7FFFFFFF#32 = 31 := by
  decide
theorem witness_IlscBitByBit : (0xA8#32 : Word Width.w32.bits) ≠ 0#32 ∧ trailingZeros 0xA8#32 = 3 := by decide
theorem witness_CtsbIsXorWithLowMask :
    trailingZeros (~~~0xA7#32) = 3 ∧ trailingZeros (~~~0xA8#32) = 0 ∧ trailingZeros (~~~0xFFFFFFFF#32) = 32 := by decide
theorem witness_StcbIsOrWithLowMask :
    (0x80000000#32 : Word Width.w32.bits) ≠ 0#32 ∧ trailingZeros 0x80000000#32 = 31 ∧ trailingZeros 0xA7#32 = 0 := by decide

end Sys2Proof.Tests
end

section
/-! PROOFS of the statements of 10_state.md (O21 to O25). First `bp` by the fields of the command, then the class of the
commands that it answers with `ill` = 1, then one equation each for `step` and `State.serve` through `bp`, from which the
statements follow. -/

namespace Sys2Proof

/-! The fields of a command. -/

/-- The values of `op` that select no operation (R50). -/
theorem Operation.ofField_error {op : BitVec 3} {e : DecodeError} :
    Operation.ofField op = .error e ↔ (op = 6#3 ∨ op = 7#3) ∧ e = .reservedOperation op := by
  constructor
  · intro h
    unfold Operation.ofField at h
    split_ifs at h
    cases h
    exact ⟨by bv_omega, rfl⟩
  · rintro ⟨rfl | rfl, rfl⟩ <;> rfl

/-- `cmd[3]` is the width field, read as a bit (R46). -/
theorem Width.ofField_widthField (cmd : BitVec cmdlen) :
    Width.ofField (widthField cmd) = if cmd.getLsbD 3 then .w64 else .w32 := by
  revert cmd
  decide

/-- The one operation a build can lack is the extension's (R51). -/
theorem Operation.builtIn_eq_false {cfg : Config} {o : Operation} :
    o.builtIn cfg = false ↔ o = .ilsc ∧ cfg.extIlsc = false := by
  cases o <;> simp [Operation.builtIn]

/-- `op` = 5 is the extension's operation (R47). -/
theorem Operation.toField_eq_five {o : Operation} : o.toField = 5#3 ↔ o = .ilsc := by
  cases o <;> decide

/-- No operation has one of the reserved codes 6 and 7 (R50). -/
theorem Operation.toField_ne_reserved (o : Operation) : o.toField ≠ 6#3 ∧ o.toField ≠ 7#3 := by
  cases o <;> decide

/-- The signed reading of R5 is the library's. -/
theorem Word.signedValue_eq_toInt {W : Nat} (v : Word W) : v.signedValue = v.toInt := by
  rw [Word.signedValue, BitVec.toInt_eq_msb_cond, BitVec.msb_eq_getLsbD_last]
  split <;> simp

namespace Machine

/-! The value an instruction's rule puts on `y`, at each width (R20, R21). -/

theorem valueOn_w32 {i : Instr} (hw : i.width = .w32) (x : BitVec xlen) :
    valueOn i x = 0#32 ++ applyOperation i.operation (x.extractLsb' 0 32) := by
  rw [valueOn, hw]
  rfl

theorem valueOn_w64 {i : Instr} (hw : i.width = .w64) (x : BitVec xlen) :
    valueOn i x = applyOperation i.operation x := by
  rw [valueOn, hw]
  rfl

/-- The low word of a 32-bit result on `y`. -/
theorem extractLsb'_zeros_append (v : Word 32) : (0#32 ++ v).extractLsb' 0 32 = v :=
  BitVec.extractLsb'_append_eq_right

/-- The high word of a 32-bit result on `y`. -/
theorem getLsbD_zeros_append {i : Nat} (v : Word 32) (hi : 32 ≤ i) : (0#32 ++ v).getLsbD i = false := by
  rw [BitVec.getLsbD_append, if_neg (Nat.not_lt.2 hi), BitVec.getLsbD_zero]

/-! `bp` by the fields of the command (R19). -/

section
variable {cfg : Config} {cmd : BitVec cmdlen} {o : Operation}

theorem bp_reserved {e : DecodeError} (he : Operation.ofField (cmd.extractLsb' 0 3) = .error e) (x : BitVec xlen) :
    bp cfg cmd x = .illegal := by
  simp [bp, he]

theorem bp_unbuilt (ho : Operation.ofField (cmd.extractLsb' 0 3) = .ok o) (hb : o.builtIn cfg = false)
    (x : BitVec xlen) : bp cfg cmd x = .illegal := by
  simp [bp, ho, hb]

theorem bp_w32 (ho : Operation.ofField (cmd.extractLsb' 0 3) = .ok o) (hb : o.builtIn cfg = true)
    (hw : cmd.getLsbD 3 = false) (x : BitVec xlen) :
    bp cfg cmd x = .result (0#32 ++ applyOperation o (x.extractLsb' 0 32)) := by
  simp only [bp, ho, hb, hw, Bool.false_eq_true, ↓reduceIte]

theorem bp_w64 (ho : Operation.ofField (cmd.extractLsb' 0 3) = .ok o) (hb : o.builtIn cfg = true)
    (hw : cmd.getLsbD 3 = true) (x : BitVec xlen) : bp cfg cmd x = .result (applyOperation o x) := by
  simp only [bp, ho, hb, hw, ↓reduceIte]

/-- A result is given only for an operation that the build implements. -/
theorem builtIn_of_bp_result (ho : Operation.ofField (cmd.extractLsb' 0 3) = .ok o) {x y : BitVec xlen}
    (h : bp cfg cmd x = .result y) : o.builtIn cfg = true := by
  by_contra hb
  simp [bp_unbuilt ho (Bool.eq_false_of_not_eq_true hb)] at h

end

/-- `bp` at a command of an instruction: the value of the instruction's rule, where the build has it. -/
theorem bp_decoded {cfg : Config} {cmd : BitVec cmdlen} {i : Instr} (hd : decodeCmd cmd = .ok i) (x : BitVec xlen) :
    bp cfg cmd x = if i.wf cfg then .result (valueOn i x) else .illegal := by
  obtain ⟨hop, hw⟩ := decodeCmd_ok.1 hd
  have ho : Operation.ofField (cmd.extractLsb' 0 3) = .ok i.operation := Operation.ofField_ok.2 hop
  rw [Width.ofField_widthField] at hw
  cases hb : i.wf cfg with
  | false => simpa using bp_unbuilt ho hb x
  | true =>
    cases hbit : cmd.getLsbD 3 with
    | false =>
      have hi : i.width = .w32 := by rw [← hw, hbit]; rfl
      simpa [valueOn_w32 hi] using bp_w32 ho hb hbit x
    | true =>
      have hi : i.width = .w64 := by rw [← hw, hbit]; rfl
      simpa [valueOn_w64 hi] using bp_w64 ho hb hbit x

/-- The decoder's error is that of the field `op`. -/
theorem ofField_of_decodeCmd_error {cmd : BitVec cmdlen} {e : DecodeError} (hd : decodeCmd cmd = .error e) :
    Operation.ofField (cmd.extractLsb' 0 3) = .error e := by
  change Operation.ofField (opField cmd) = .error e
  cases ho : Operation.ofField (opField cmd) with
  | error e' => simpa [decodeCmd, ho] using hd
  | ok o => simp [decodeCmd, ho] at hd

/-! The commands that select no implemented operation (R22, R102). -/

/-- An instruction's command is illegal exactly where the build lacks the instruction. -/
theorem isIllegal_decoded {cfg : Config} {cmd : BitVec cmdlen} {i : Instr} (hd : decodeCmd cmd = .ok i) :
    isIllegal cfg cmd ↔ i.wf cfg = false := by
  have hop : cmd.extractLsb' 0 3 = i.operation.toField := (decodeCmd_ok.1 hd).1
  simp [isIllegal, hop, Operation.toField_ne_reserved, Operation.toField_eq_five, Instr.wf,
    Operation.builtIn_eq_false]

/-- A command that does not decode is illegal in every build. -/
theorem isIllegal_reserved {cmd : BitVec cmdlen} {e : DecodeError} (hd : decodeCmd cmd = .error e) (cfg : Config) :
    isIllegal cfg cmd :=
  (Operation.ofField_error.1 (ofField_of_decodeCmd_error hd)).1.imp_right .inl

theorem commandImplemented_eq_false {cfg : Config} {cmd : BitVec cmdlen} :
    commandImplemented cfg cmd = false ↔ isIllegal cfg cmd := by
  cases hd : decodeCmd cmd with
  | error e => simp [commandImplemented, hd, isIllegal_reserved hd]
  | ok i => simp [commandImplemented, hd, isIllegal_decoded hd]

theorem illBit_eq_one {cfg : Config} {cmd : BitVec cmdlen} : illBit cfg cmd = 1#1 ↔ isIllegal cfg cmd := by
  rw [← commandImplemented_eq_false, illBit]
  cases commandImplemented cfg cmd <;> decide

theorem illBit_eq_zero {cfg : Config} {cmd : BitVec cmdlen} : illBit cfg cmd = 0#1 ↔ ¬ isIllegal cfg cmd := by
  rw [← commandImplemented_eq_false, illBit]
  cases commandImplemented cfg cmd <;> decide

/-- `bp` drives `ill` from the command alone. -/
theorem responseIll_bp (cfg : Config) (cmd : BitVec cmdlen) (x : BitVec xlen) :
    responseIll (bp cfg cmd x) = illBit cfg cmd := by
  cases hd : decodeCmd cmd with
  | error e => simp [bp_reserved (ofField_of_decodeCmd_error hd), illBit, commandImplemented, hd]
  | ok i =>
    rw [bp_decoded hd]
    cases hb : i.wf cfg <;> simp [illBit, commandImplemented, hd, hb]

/-! `step` and `State.serve` through `bp`. -/

/-- A meaning whose instruction the build has. -/
theorem exec_built {i : Instr} {s : State} {r : Request} (hr : s.request = some r) (hb : i.wf s.cfg = true) :
    exec i s = .next (s.respond (.result (valueOn i r.x))) := by
  rw [exec_eq_transact, transact_built hr hb]
  rfl

/-- A meaning whose instruction the build lacks. -/
theorem exec_unbuilt {i : Instr} {s : State} {r : Request} (hr : s.request = some r) (hb : i.wf s.cfg = false) :
    exec i s = .fault .illegalCommand := by
  rw [exec_eq_transact, transact_unbuilt hr hb]
  rfl

/-- A step on a command of an instruction. -/
theorem step_decoded {s : State} {r : Request} {i : Instr} (hr : s.request = some r) (hd : decodeCmd r.cmd = .ok i) :
    step s = exec i s := by
  simp [step, hr, hd]

/-- The outcome of a transaction that the block answers with `p`: a result is driven on the ports, and `IllegalCommand` is
the fault (R103, R116). -/
def State.outcomeOf (s : State) : Response → Host.Outcome State Fault Refusal
  | .result y => .next (s.respond (.result y))
  | .illegal => .fault .illegalCommand

@[simp] theorem State.outcomeOf_result (s : State) (y : BitVec xlen) :
    s.outcomeOf (.result y) = .next (s.respond (.result y)) := rfl

@[simp] theorem State.outcomeOf_illegal (s : State) : s.outcomeOf .illegal = .fault .illegalCommand := rfl

/-- One step is one application of `bp` to the request on the ports (R19). -/
theorem step_eq_outcomeOf_bp {s : State} {r : Request} (hr : s.request = some r) :
    step s = s.outcomeOf (bp s.cfg r.cmd r.x) := by
  cases hd : decodeCmd r.cmd with
  | error e => simp [step_reserved hr hd, bp_reserved (ofField_of_decodeCmd_error hd)]
  | ok i =>
    rw [step_decoded hr hd, bp_decoded hd]
    cases hb : i.wf s.cfg with
    | false => simp [exec_unbuilt hr hb]
    | true => simp [exec_built hr hb]

/-- The ports already carry `bp` of a request that is presented (R120), so driving it again changes nothing. -/
@[simp] theorem State.present_respond_bp (s : State) (r : Request) :
    (s.present r).respond (bp s.cfg r.cmd r.x) = s.present r := rfl

/-- A transaction delivers `bp` of its request and leaves the state that presenting the request made (R23). -/
theorem State.serve_eq (s : State) (r : Request) : s.serve r = (some (bp s.cfg r.cmd r.x), s.present r) := by
  have hstep : step (s.present r) = (s.present r).outcomeOf (bp s.cfg r.cmd r.x) :=
    step_eq_outcomeOf_bp (s.present_request r)
  have hports := s.present_respond_bp r
  rw [State.serve, hstep]
  cases hp : bp s.cfg r.cmd r.x with
  | result y =>
    rw [hp] at hports
    simp [hports, hp]
  | illegal =>
    rw [hp] at hports
    simp [hports]

theorem State.answers_iff {s : State} {cmd : BitVec cmdlen} {x y : BitVec xlen} :
    s.Answers cmd x y ↔ bp s.cfg cmd x = .result y := by
  simp [State.Answers, State.serve_eq]

/-! The statements. -/

/-- Settles O21: `bp` of an implemented command is written over the selected operand alone. -/
theorem operandSelection : Obligations.OperandSelection := by
  intro s cmd o ho hb
  refine ⟨fun hw x x' hx => ⟨?_, ?_⟩, fun hw x => State.answers_iff.2 (bp_w64 ho hb hw x)⟩
  · simp [State.serve_eq, bp_w32 ho hb hw, hx]
  · exact ⟨_, State.answers_iff.2 (bp_w32 ho hb hw x), extractLsb'_zeros_append _⟩

/-- R21 for one answered request of width 32. -/
theorem y_of_answers_w32 {s : State} {cmd : BitVec cmdlen} {o : Operation} {x y : BitVec xlen}
    (ho : Operation.ofField (cmd.extractLsb' 0 3) = .ok o) (h : s.Answers cmd x y) (hw : cmd.getLsbD 3 = false) :
    y = 0#32 ++ applyOperation o (x.extractLsb' 0 32) := by
  have hy := State.answers_iff.1 h
  rw [bp_w32 ho (builtIn_of_bp_result ho hy) hw] at hy
  exact (Response.result.inj hy).symm

/-- R21 for one answered request of width 64. -/
theorem y_of_answers_w64 {s : State} {cmd : BitVec cmdlen} {o : Operation} {x y : BitVec xlen}
    (ho : Operation.ofField (cmd.extractLsb' 0 3) = .ok o) (h : s.Answers cmd x y) (hw : cmd.getLsbD 3 = true) :
    y = applyOperation o x := by
  have hy := State.answers_iff.1 h
  rw [bp_w64 ho (builtIn_of_bp_result ho hy) hw] at hy
  exact (Response.result.inj hy).symm

/-- Settles O22: an answered request has the `y` of `bp`, whose high word is zero at width 32; the example is
`clsb` of the 32-bit word of all ones. -/
theorem resultPlacement : Obligations.ResultPlacement := by
  refine ⟨fun s cmd o x y ho h => ⟨fun hw => ?_, y_of_answers_w64 ho h⟩, fun s => ?_, by decide, by decide⟩
  · rw [y_of_answers_w32 ho h hw, extractLsb'_zeros_append]
    exact ⟨fun i hi => getLsbD_zeros_append _ hi, rfl, Word.signedValue_eq_toInt _⟩
  · exact State.answers_iff.2 (bp_w32 (o := .clsb) rfl rfl rfl _)

/-- Settles O23: the response is `bp`'s, whose `ill` is a function of the command. -/
theorem illIsAFunctionOfTheCommand : Obligations.IllIsAFunctionOfTheCommand := by
  intro s cmd x
  refine ⟨bp s.cfg cmd x, by rw [State.serve_eq], responseIll_bp _ _ _, ?_, ?_⟩
  · rw [responseIll_bp, illBit_eq_one]
  · rw [responseIll_bp, illBit_eq_zero]

/-- Settles O24 by the equation of `step` through `bp`. -/
theorem stepRefinesTransactionFunction : Obligations.StepRefinesTransactionFunction := by
  intro s r hr
  refine ⟨fun y hy => ?_, fun hill => ?_, by rw [State.serve_eq]⟩
  · rw [step_eq_outcomeOf_bp hr, hy, State.outcomeOf_result]
  · rw [step_eq_outcomeOf_bp hr, hill, State.outcomeOf_illegal]

/-- Settles O25: the response is `bp` of the request, in which only the configuration of the state stands. -/
theorem everyRequestHasAResponse : Obligations.EveryRequestHasAResponse := by
  intro s r
  refine ⟨bp s.cfg r.cmd r.x, by rw [State.serve_eq], fun s' hcfg => ?_, ?_, rfl⟩
  · rw [State.serve_eq, hcfg]
  · rw [State.serve_eq, State.present_respond_bp]

end Machine
end Sys2Proof
end

section
/-! PROOFS of the statements of 20_memory.md (O28). A session is the map of its transactions to their responses; what
reordering, dropping and selecting transactions do then follows from the library's lemmas on `List.map`. -/

namespace Sys2Proof.Machine

/-- A transaction with the requester that its response is delivered to, answered alone from the state `s`. -/
def State.deliver (s : State) (q : Requester × Request) : Requester × Option Response := (q.1, (s.serve q.2).1)

/-- Of the state, a response depends on the configuration alone (R23). -/
theorem State.deliver_congr {s s' : State} (hcfg : s'.cfg = s.cfg) (q : Requester × Request) :
    s'.deliver q = s.deliver q := by
  simp only [State.deliver, State.serve_eq, hcfg]

/-- A transaction leaves the configuration of the build. -/
@[simp] theorem State.serve_cfg (s : State) (r : Request) : (s.serve r).2.cfg = s.cfg := by
  rw [State.serve_eq, State.present_cfg]

/-- In a session from any state of the build, each response is the one its request would have alone (R36). -/
theorem session_eq_map_deliver {s s' : State} (hcfg : s'.cfg = s.cfg) (qs : List (Requester × Request)) :
    session s' qs = qs.map s.deliver := by
  induction qs generalizing s' with
  | nil => rfl
  | cons q rest ih =>
    have hrest : session (s'.serve q.2).2 rest = rest.map s.deliver := ih ((s'.serve_cfg q.2).trans hcfg)
    rw [List.map_cons, ← hrest, ← State.deliver_congr hcfg q]
    rfl

/-- What a session delivers to a requester is its own transactions answered alone (R36). -/
theorem deliveredTo_session (s : State) (who : Requester) (qs : List (Requester × Request)) :
    deliveredTo who (session s qs) = (qs.filter (fun q => q.1 == who)).map s.deliver := by
  rw [session_eq_map_deliver rfl, deliveredTo, List.filter_map]
  rfl

/-- Settles O28: each part is a property of `List.map`, since a session answers each request as it would be answered
alone. -/
theorem sessionIndependence : Obligations.SessionIndependence := by
  refine ⟨fun s s' qs hcfg => session_eq_map_deliver hcfg qs, fun s qs qs' hperm => ?_, fun s qs qs' hsub => ?_,
    fun s who qs qs' hown => ?_⟩
  · rw [session_eq_map_deliver rfl, session_eq_map_deliver rfl]
    exact hperm.map s.deliver
  · rw [session_eq_map_deliver rfl, session_eq_map_deliver rfl]
    exact hsub.map s.deliver
  · rw [deliveredTo_session, deliveredTo_session, hown]

end Sys2Proof.Machine
end

section
/-! PROOFS of the statements of 30_encoding.md (O13 to O16). First the command as its two fields, then the class of a command
through `isIllegal`, the opcode table as the graph of the decoder, and what a transaction with an illegal command does. -/

namespace Sys2Proof

/-! A command is its field `w` above its field `op` (R45). -/

@[simp] theorem widthField_append (w : BitVec 1) (op : BitVec 3) : widthField (w ++ op) = w :=
  BitVec.extractLsb'_append_eq_left

@[simp] theorem opField_append (w : BitVec 1) (op : BitVec 3) : opField (w ++ op) = op :=
  BitVec.extractLsb'_append_eq_right

theorem widthField_append_opField (cmd : BitVec cmdlen) : widthField cmd ++ opField cmd = cmd := by
  revert cmd
  decide

/-- The decoder on a command made of its fields. -/
theorem decodeCmd_append {op : BitVec 3} {o : Operation} (ho : op = o.toField) (w : BitVec 1) :
    decodeCmd (w ++ op) = .ok (Instr.of o (Width.ofField w)) := by
  simp [decodeCmd_ok, ho]

/-- The decoder on a reserved value of `op` (R50). -/
theorem decodeCmd_append_reserved {op : BitVec 3} (hop : op = 6#3 ∨ op = 7#3) (w : BitVec 1) :
    decodeCmd (w ++ op) = .error (.reservedOperation op) := by
  have herr : Operation.ofField op = .error (.reservedOperation op) := Operation.ofField_error.2 ⟨hop, rfl⟩
  simp [decodeCmd, herr]

/-- Decoder and encoder are each other's inverse: the code has no don't-care bit. -/
theorem decodeCmd_eq_ok_iff {cmd : BitVec cmdlen} {i : Instr} : decodeCmd cmd = .ok i ↔ cmd = encodeCmd i := by
  constructor
  · intro h
    obtain ⟨hop, hw⟩ := decodeCmd_ok.1 h
    rw [encodeCmd, ← hop, ← hw, Width.toField_ofField, widthField_append_opField]
  · rintro rfl
    exact decodeCmd_ok.2 ⟨opField_append _ _, by simp [encodeCmd]⟩

/-! The opcode table (R49). -/

theorem instr_mem_opcodeTable (i : Instr) : ∃ row ∈ opcodeTable, row.instr = i := by
  cases i <;> decide

theorem mask_of_mem_opcodeTable : ∀ row ∈ opcodeTable, row.mask = 0xF#4 := by decide

theorem pattern_of_mem_opcodeTable : ∀ row ∈ opcodeTable, row.pattern = encodeCmd row.instr := by decide

theorem whenBuilt_of_mem_opcodeTable : ∀ row ∈ opcodeTable, row.whenBuilt = true ↔ row.instr.operation = .ilsc := by
  decide

/-- Under a full mask a row covers its pattern and no other command. -/
theorem covers_eq_pattern_beq {row : OpcodeRow} (hrow : row ∈ opcodeTable) (cmd : BitVec cmdlen) :
    row.covers cmd = (row.pattern == cmd) := by
  have hmask : cmd &&& row.mask = cmd := by
    rw [mask_of_mem_opcodeTable row hrow]
    exact BitVec.and_allOnes
  rw [OpcodeRow.covers, hmask, Bool.beq_comm]

/-- A row of the table covers exactly the commands that decode to its instruction. -/
theorem covers_iff_decodeCmd {row : OpcodeRow} (hrow : row ∈ opcodeTable) {cmd : BitVec cmdlen} :
    row.covers cmd = true ↔ decodeCmd cmd = .ok row.instr := by
  rw [covers_eq_pattern_beq hrow, pattern_of_mem_opcodeTable row hrow, decodeCmd_eq_ok_iff, beq_iff_eq, eq_comm]

/-- No command is covered by two rows, since no pattern stands twice in the table. -/
theorem length_filter_covers_le_one (cmd : BitVec cmdlen) :
    (opcodeTable.filter (fun row => row.covers cmd)).length ≤ 1 := by
  have hnodup : (opcodeTable.map OpcodeRow.pattern).Nodup := by decide
  calc (opcodeTable.filter (fun row => row.covers cmd)).length
      = (opcodeTable.filter (fun row => row.pattern == cmd)).length := by
        rw [List.filter_congr fun row hrow => covers_eq_pattern_beq hrow cmd]
    _ = (opcodeTable.map OpcodeRow.pattern).count cmd := by
        rw [List.count, List.countP_map, List.countP_eq_length_filter]
        rfl
    _ ≤ 1 := List.nodup_iff_count_le_one.1 hnodup cmd

namespace Machine

/-! The commands that are reserved in a build: those that rule R102 names. -/

/-- An instruction's command is illegal exactly where the instruction is the extension's and the build has no extension. -/
theorem isIllegal_decoded_iff_ilsc {cfg : Config} {cmd : BitVec cmdlen} {i : Instr} (hd : decodeCmd cmd = .ok i) :
    isIllegal cfg cmd ↔ i.operation = .ilsc ∧ cfg.extIlsc = false :=
  (isIllegal_decoded hd).trans Operation.builtIn_eq_false

theorem classify_eq_reserved {cfg : Config} {cmd : BitVec cmdlen} :
    classify cfg cmd = .reserved ↔ isIllegal cfg cmd := by
  cases hd : decodeCmd cmd with
  | error e => simp [classify, hd, isIllegal_reserved hd]
  | ok i =>
    rw [isIllegal_decoded_iff_ilsc hd]
    by_cases hi : i.operation = .ilsc
    · simp [classify, hd, hi, Instr.wf, Operation.builtIn]
    · simp [classify, hd, hi]

/-- A command is illegal exactly where every row that covers it is an extension row of a build without the extension. -/
theorem isIllegal_iff_rows {cfg : Config} {cmd : BitVec cmdlen} :
    isIllegal cfg cmd ↔
      ∀ row ∈ opcodeTable, row.covers cmd = true → row.whenBuilt = true ∧ cfg.extIlsc = false := by
  cases hd : decodeCmd cmd with
  | error e =>
    refine iff_of_true (isIllegal_reserved hd cfg) fun row hrow hcov => ?_
    simp [(covers_iff_decodeCmd hrow).1 hcov] at hd
  | ok i =>
    rw [isIllegal_decoded_iff_ilsc hd]
    constructor
    · intro hi row hrow hcov
      obtain rfl : i = row.instr := Except.ok.inj (hd.symm.trans ((covers_iff_decodeCmd hrow).1 hcov))
      rwa [whenBuilt_of_mem_opcodeTable row hrow]
    · intro hrows
      obtain ⟨row, hrow, rfl⟩ := instr_mem_opcodeTable i
      rw [← whenBuilt_of_mem_opcodeTable row hrow]
      exact hrows row hrow ((covers_iff_decodeCmd hrow).2 hd)

/-! A transaction with an illegal command (R50). -/

theorem bp_of_isIllegal {cfg : Config} {cmd : BitVec cmdlen} (h : isIllegal cfg cmd) (x : BitVec xlen) :
    bp cfg cmd x = .illegal := by
  have hill : responseIll (bp cfg cmd x) = 1#1 := (responseIll_bp cfg cmd x).trans (illBit_eq_one.2 h)
  cases hp : bp cfg cmd x with
  | result y => simp [hp] at hill
  | illegal => rfl

theorem step_present_of_isIllegal {s : State} {cmd : BitVec cmdlen} (h : isIllegal s.cfg cmd) (x : BitVec xlen) :
    step (s.present ⟨cmd, x⟩) = .fault .illegalCommand := by
  rw [step_eq_outcomeOf_bp (s.present_request _), State.present_cfg, bp_of_isIllegal h, State.outcomeOf_illegal]

/-- A transaction changes the response to no later request (R36). -/
theorem State.serve_serve (s : State) (q r : Request) : ((s.serve q).2.serve r).1 = (s.serve r).1 := by
  rw [State.serve_eq, State.serve_eq s r, State.serve_cfg]

/-- All that rule R50 says of a command, at any command that selects no operation of the build. -/
theorem illegal_transaction {s : State} {cmd : BitVec cmdlen} (h : isIllegal s.cfg cmd) (x : BitVec xlen) :
    step (s.present ⟨cmd, x⟩) = .fault .illegalCommand ∧
      (s.serve ⟨cmd, x⟩).1 = some .illegal ∧ responseIll .illegal = 1#1 ∧ responseY .illegal = none ∧
      (∀ y : BitVec xlen, responseAllows .illegal 1#1 y = true) ∧
      ∀ r : Request, ((s.serve ⟨cmd, x⟩).2.serve r).1 = (s.serve r).1 := by
  have hserve : (s.serve ⟨cmd, x⟩).1 = some .illegal := by rw [State.serve_eq, bp_of_isIllegal h]
  exact ⟨step_present_of_isIllegal h x, hserve, responseIll_illegal, responseY_illegal, fun _ => rfl,
    s.serve_serve _⟩

/-! The statements. -/

/-- Settles O13: the four commands have `op` 6 or 7, so they are illegal in every build. -/
theorem reservedCommandsRaise : Obligations.ReservedCommandsRaise := by
  intro s x c hc
  have hop : ∀ c ∈ [0x6#4, 0x7#4, 0xE#4, 0xF#4], c.extractLsb' 0 3 = 6#3 ∨ c.extractLsb' 0 3 = 7#3 := by decide
  exact illegal_transaction ((hop c hc).imp_right .inl) x

/-- Settles O14: without the extension the two commands, whose `op` is 5, are illegal; with it a step runs the instruction
that the decoder reads. -/
theorem extensionCommands : Obligations.ExtensionCommands := by
  refine ⟨fun s x hext => ⟨fun c hc => ?_, fun i hi r hr => exec_unbuilt hr ?_⟩, fun s x _ => ⟨?_, ?_⟩, rfl⟩
  · have hop : ∀ c ∈ [0x5#4, 0xD#4], c.extractLsb' 0 3 = 5#3 := by decide
    exact illegal_transaction (.inr (.inr ⟨hop c hc, hext⟩)) x
  · have hilsc : ∀ i ∈ [Instr.ilsc32, Instr.ilsc64], i.operation = .ilsc := by decide
    exact Operation.builtIn_eq_false.2 ⟨hilsc i hi, hext⟩
  · exact step_decoded (s.present_request _) (decodeCmd_eq_ok_iff.2 rfl)
  · exact step_decoded (s.present_request _) (decodeCmd_eq_ok_iff.2 rfl)

/-- Settles O15: the map by evaluating `classify` at each command, the rest by the table's being the graph of the decoder. -/
theorem commandMap : Obligations.CommandMap := by
  refine ⟨fun cfg => ?map, rfl, rfl, mask_of_mem_opcodeTable, length_filter_covers_le_one,
    fun cfg cmd => classify_eq_reserved.trans isIllegal_iff_rows, fun row hrow => ?decodes, by decide,
    fun s cmd x h => step_present_of_isIllegal (classify_eq_reserved.1 h) x⟩
  case map => exact ⟨rfl, rfl, rfl, rfl, rfl, rfl, rfl, rfl, rfl, rfl, rfl, rfl, rfl, rfl, rfl, rfl⟩
  case decodes => exact decodeCmd_eq_ok_iff.2 (pattern_of_mem_opcodeTable row hrow)

/-- Settles O16: the decoder on a command made of its two fields. -/
theorem commandFields : Obligations.CommandFields := by
  intro w op
  refine ⟨widthField_append w op, opField_append w op, fun o ho => decodeCmd_append ?_ w,
    fun hop => decodeCmd_append_reserved hop w⟩
  cases o <;> simpa [Operation.toField] using ho

end Machine
end Sys2Proof
end

section
/-! PROOFS of the statements of 40_bit_primitives.md (O45 to O49, O1 to O10). First the five functions bit by bit, at any
width, from which the document's properties of them follow; then the transactions of a built operation at each width, which
are the results of the ten instructions. -/

namespace Sys2Proof

/-- A build has an instruction exactly where it has its operation (R49, R51). -/
@[simp] theorem Instr.wf_of (cfg : Config) (o : Operation) (w : Width) : (Instr.of o w).wf cfg = o.builtIn cfg := by
  rw [Instr.wf, Instr.operation_of]

end Sys2Proof

namespace Sys2Proof.Laws

open Sys2Proof.Machine

/-! The five functions bit by bit: each changes only the bits up to the lowest 1, or up to the lowest 0, of its operand. -/

section
variable {W i : Nat} (v : Word W)

/-- `clsb` clears the lowest 1 bit (R66). -/
theorem getLsbD_clsb (hi : i < W) : (clsb v).getLsbD i = if i = trailingZeros v then false else v.getLsbD i := by
  rw [clsb, BitVec.getLsbD_and, getLsbD_dec v hi]
  rcases lt_trichotomy i (trailingZeros v) with hlt | heq | hgt
  · simp [hlt, hlt.ne, getLsbD_lt_trailingZeros v hlt]
  · simp [heq]
  · simp [hgt.not_gt, hgt.ne']

/-- `stcb` sets the bits below the lowest 1 bit (R75). -/
theorem getLsbD_stcb (hi : i < W) : (stcb v).getLsbD i = if i < trailingZeros v then true else v.getLsbD i := by
  rw [stcb, BitVec.getLsbD_or, getLsbD_dec v hi]
  rcases lt_trichotomy i (trailingZeros v) with hlt | heq | hgt
  · simp [hlt]
  · simp [heq]
  · simp [hgt.not_gt, hgt.ne']

/-- `slcb` and `clsb` are each other's complements on the complement (R86). -/
theorem slcb_eq_not_clsb_not : slcb v = ~~~(clsb (~~~v)) := by
  rw [slcb, clsb, BitVec.not_and, BitVec.not_not, not_dec, BitVec.not_not]

/-- `ctsb` and `stcb` are each other's complements on the complement (R86). -/
theorem ctsb_eq_not_stcb_not : ctsb v = ~~~(stcb (~~~v)) := by
  rw [ctsb, stcb, BitVec.not_or, BitVec.not_not, not_dec, BitVec.not_not]

/-- `slcb` sets the lowest 0 bit (R69). -/
theorem getLsbD_slcb (hi : i < W) : (slcb v).getLsbD i = if i = trailingOnes v then true else v.getLsbD i := by
  rw [slcb_eq_not_clsb_not, BitVec.getLsbD_not, getLsbD_clsb _ hi, ← trailingOnes]
  split <;> simp [hi]

/-- `ctsb` clears the bits below the lowest 0 bit (R72). -/
theorem getLsbD_ctsb (hi : i < W) : (ctsb v).getLsbD i = if i < trailingOnes v then false else v.getLsbD i := by
  rw [ctsb_eq_not_stcb_not, BitVec.getLsbD_not, getLsbD_stcb _ hi, ← trailingOnes]
  split <;> simp [hi]

/-- `ilcb` is 1 at the lowest 0 bit and nowhere else (R78). -/
theorem getLsbD_ilcb (hi : i < W) : (ilcb v).getLsbD i = decide (i = trailingOnes v) := by
  rw [ilcb, BitVec.getLsbD_and, BitVec.getLsbD_not, getLsbD_inc v hi]
  rcases lt_trichotomy i (trailingOnes v) with hlt | heq | hgt
  · simp [hlt, hlt.ne]
  · have hbit : v.getLsbD i = false := heq ▸ getLsbD_trailingOnes v
    rw [hbit]
    simp [← heq, hi]
  · simp [hgt.not_gt, hgt.ne']

end

/-! The document's properties at any width. -/

section
variable {W : Nat}

theorem lowmask_zero : lowmask W 0 = 0#W := rfl

theorem lowmask_width : lowmask W W = Word.ones W := by
  refine BitVec.eq_of_getLsbD_eq fun i hi => ?_
  simp [getLsbD_lowmask, hi]

theorem trailingZeros_eq_zero_iff {v : Word W} (hv : v ≠ 0#W) : trailingZeros v = 0 ↔ v.getLsbD 0 = true :=
  ⟨fun h => h ▸ (trailingZeros_spec hv).2.1, fun h => trailingZeros_unique h (by simp)⟩

theorem clsb_eq_xor_lowestSetBit (v : Word W) : clsb v = v ^^^ lowestSetBit v := by
  refine BitVec.eq_of_getLsbD_eq fun i hi => ?_
  rw [getLsbD_clsb v hi, BitVec.getLsbD_xor, getLsbD_lowestSetBit]
  by_cases h : i = trailingZeros v
  · have hbit : v.getLsbD i = true := h ▸ getLsbD_trailingZeros v (h ▸ hi)
    simp [← h, hi, hbit]
  · simp [h]

theorem slcb_eq_or_lowestSetBit_not (v : Word W) : slcb v = v ||| lowestSetBit (~~~v) := by
  refine BitVec.eq_of_getLsbD_eq fun i hi => ?_
  rw [getLsbD_slcb v hi, BitVec.getLsbD_or, getLsbD_lowestSetBit, ← trailingOnes]
  by_cases h : i = trailingOnes v
  · simp [← h, hi]
  · simp [h]

theorem ctsb_eq_xor_lowmask (v : Word W) : ctsb v = v ^^^ lowmask W (trailingOnes v) := by
  refine BitVec.eq_of_getLsbD_eq fun i hi => ?_
  rw [getLsbD_ctsb v hi, BitVec.getLsbD_xor, getLsbD_lowmask]
  by_cases h : i < trailingOnes v
  · simp [h, hi, getLsbD_lt_trailingOnes v h]
  · simp [h]

theorem stcb_eq_or_lowmask (v : Word W) : stcb v = v ||| lowmask W (trailingZeros v) := by
  refine BitVec.eq_of_getLsbD_eq fun i hi => ?_
  rw [getLsbD_stcb v hi, BitVec.getLsbD_or, getLsbD_lowmask]
  by_cases h : i < trailingZeros v <;> simp [h, hi]

theorem ilcb_eq_lowestSetBit_not (v : Word W) : ilcb v = lowestSetBit (~~~v) := by
  refine BitVec.eq_of_getLsbD_eq fun i hi => ?_
  rw [getLsbD_ilcb v hi, getLsbD_lowestSetBit, ← trailingOnes]
  simp [hi]

end

end Sys2Proof.Laws

namespace Sys2Proof.Machine

open Sys2Proof.Laws

/-- Settles O45: the two words agree bit by bit. -/
theorem clsbIsXorWithLowestSetBit : Obligations.ClsbIsXorWithLowestSetBit := by
  refine fun w v => ⟨clsb_eq_xor_lowestSetBit v, BitVec.zero_and, lowestSetBit_zero _, ?_⟩
  cases w <;> decide

/-- Settles O46: the two words agree bit by bit; the complement of -1 has no lowest set bit. -/
theorem slcbIsOrWithLowestClearBit : Obligations.SlcbIsOrWithLowestClearBit := by
  refine fun w v => ⟨slcb_eq_or_lowestSetBit_not v, ?_, ?_, BitVec.allOnes_or⟩
  · simp [slcb, Word.inc]
  · rw [BitVec.not_allOnes, lowestSetBit_zero]

/-- Settles O47: the two words agree bit by bit, and the mask of no bits is zero. -/
theorem ctsbIsXorWithLowMask : Obligations.CtsbIsXorWithLowMask := by
  intro w v
  have hones : trailingOnes (Word.ones w.bits) = w.bits := trailingOnes_eq_width.2 rfl
  refine ⟨fun _ => ctsb_eq_xor_lowmask v, fun h => ?_, hones, lowmask_width, ?_⟩
  · rw [ctsb_eq_xor_lowmask, trailingOnes, h, lowmask_zero, BitVec.xor_zero]
  · rw [ctsb_eq_xor_lowmask, hones, lowmask_width, BitVec.xor_self]

/-- Settles O48: the two words agree bit by bit, and the mask of no bits is zero. -/
theorem stcbIsOrWithLowMask : Obligations.StcbIsOrWithLowMask := by
  refine fun w v => ⟨fun hv => ⟨Nat.le_sub_one_of_lt (trailingZeros_spec hv).1, fun _ => stcb_eq_or_lowmask v,
    fun h => ?_, trailingZeros_eq_zero_iff hv⟩, ?_⟩
  · rw [stcb_eq_or_lowmask, h, lowmask_zero, BitVec.or_zero]
  · rw [stcb_eq_or_lowmask, trailingZeros_zero, lowmask_width, BitVec.or_allOnes]

/-- Settles O49: the two words agree bit by bit; the complement of -1 has no lowest set bit. -/
theorem ilcbIsLowestSetBitOfComplement : Obligations.IlcbIsLowestSetBitOfComplement := by
  refine fun w v => ⟨ilcb_eq_lowestSetBit_not v, ?_⟩
  rw [ilcb_eq_lowestSetBit_not, BitVec.not_allOnes, lowestSetBit_zero]

/-! The transactions of an operation that the build implements, at each width (R19 to R21). -/

section
variable {o : Operation} {s : State} {cmd : BitVec cmdlen}

theorem exec_of_w32 {r : Request} (hb : o.builtIn s.cfg = true) (hr : s.request = some r) :
    exec (Instr.of o .w32) s = .next (s.respond (.result (0#32 ++ applyOperation o (r.x.extractLsb' 0 32)))) := by
  rw [exec_built hr ((Instr.wf_of _ _ _).trans hb), valueOn_w32 (Instr.width_of o .w32), Instr.operation_of]

theorem exec_of_w64 {r : Request} (hb : o.builtIn s.cfg = true) (hr : s.request = some r) :
    exec (Instr.of o .w64) s = .next (s.respond (.result (applyOperation o r.x))) := by
  rw [exec_built hr ((Instr.wf_of _ _ _).trans hb), valueOn_w64 (Instr.width_of o .w64), Instr.operation_of]

/-- A command of an instruction is answered with the value of the instruction's rule. -/
theorem State.answers_valueOn {i : Instr} (hd : decodeCmd cmd = .ok i) (hb : i.wf s.cfg = true) (x : BitVec xlen) :
    s.Answers cmd x (valueOn i x) :=
  State.answers_iff.2 ((bp_decoded hd x).trans (if_pos hb))

theorem State.answers_w32 (hd : decodeCmd cmd = .ok (Instr.of o .w32)) (hb : o.builtIn s.cfg = true)
    (x : BitVec xlen) : s.Answers cmd x (0#32 ++ applyOperation o (x.extractLsb' 0 32)) := by
  simpa [valueOn_w32] using State.answers_valueOn hd ((Instr.wf_of _ _ _).trans hb) x

theorem State.answers_w64 (hd : decodeCmd cmd = .ok (Instr.of o .w64)) (hb : o.builtIn s.cfg = true)
    (x : BitVec xlen) : s.Answers cmd x (applyOperation o x) := by
  simpa [valueOn_w64] using State.answers_valueOn hd ((Instr.wf_of _ _ _).trans hb) x

/-- A table of 32-bit operands and results of the operation is a table of transactions. -/
theorem State.answers_rows_w32 (hd : decodeCmd cmd = .ok (Instr.of o .w32)) (hb : o.builtIn s.cfg = true)
    {rows : List (Word 32 × Word 32)} (hrows : rows.all (fun c => applyOperation o c.1 == c.2) = true) :
    ∀ c ∈ rows, s.Answers cmd (0#32 ++ c.1) (0#32 ++ c.2) := by
  intro c hc
  have hval : applyOperation o c.1 = c.2 := beq_iff_eq.1 (List.all_eq_true.1 hrows c hc)
  simpa only [extractLsb'_zeros_append, hval] using State.answers_w32 hd hb (0#32 ++ c.1)

/-- A table of 64-bit operands and results of the operation is a table of transactions. -/
theorem State.answers_rows_w64 (hd : decodeCmd cmd = .ok (Instr.of o .w64)) (hb : o.builtIn s.cfg = true)
    {rows : List (Word 64 × Word 64)} (hrows : rows.all (fun c => applyOperation o c.1 == c.2) = true) :
    ∀ c ∈ rows, s.Answers cmd c.1 c.2 := by
  intro c hc
  have hval : applyOperation o c.1 = c.2 := beq_iff_eq.1 (List.all_eq_true.1 hrows c hc)
  exact hval ▸ State.answers_w64 hd hb c.1

end

/-! The results of the ten instructions: a core operation is built in every configuration, by `rfl`, and the rule's formula
is the operation's definition, so that only the corner cases are left to evaluate. -/

/-- Settles O1: `clsb` at width 32. -/
theorem clsb32Result : Obligations.Clsb32Result :=
  ⟨fun _ _ => exec_of_w32 (o := .clsb) rfl, rfl,
    fun _ => State.answers_rows_w32 (o := .clsb) rfl rfl (by decide)⟩

/-- Settles O2: `clsb` at width 64; the comparison with CLSB32 is a transaction at width 32. -/
theorem clsb64Result : Obligations.Clsb64Result :=
  ⟨fun _ _ => exec_of_w64 (o := .clsb) rfl, rfl,
    fun _ => State.answers_rows_w64 (o := .clsb) rfl rfl (by decide),
    fun _ => State.answers_w32 (o := .clsb) rfl rfl _⟩

/-- Settles O3: `slcb` at width 32. -/
theorem slcb32Result : Obligations.Slcb32Result :=
  ⟨fun _ _ => exec_of_w32 (o := .slcb) rfl, rfl,
    fun _ => State.answers_rows_w32 (o := .slcb) rfl rfl (by decide)⟩

/-- Settles O4: `slcb` at width 64; the comparison with SLCB32 is a transaction at width 32. -/
theorem slcb64Result : Obligations.Slcb64Result :=
  ⟨fun _ _ => exec_of_w64 (o := .slcb) rfl, rfl,
    fun _ => State.answers_rows_w64 (o := .slcb) rfl rfl (by decide),
    fun _ => State.answers_w32 (o := .slcb) rfl rfl _⟩

/-- Settles O5: `ctsb` at width 32. -/
theorem ctsb32Result : Obligations.Ctsb32Result :=
  ⟨fun _ _ => exec_of_w32 (o := .ctsb) rfl, rfl,
    fun _ => State.answers_rows_w32 (o := .ctsb) rfl rfl (by decide)⟩

/-- Settles O6: `ctsb` at width 64. -/
theorem ctsb64Result : Obligations.Ctsb64Result :=
  ⟨fun _ _ => exec_of_w64 (o := .ctsb) rfl, rfl,
    fun _ => State.answers_rows_w64 (o := .ctsb) rfl rfl (by decide)⟩

/-- Settles O7: `stcb` at width 32. -/
theorem stcb32Result : Obligations.Stcb32Result :=
  ⟨fun _ _ => exec_of_w32 (o := .stcb) rfl, rfl,
    fun _ => State.answers_rows_w32 (o := .stcb) rfl rfl (by decide)⟩

/-- Settles O8: `stcb` at width 64; the comparison with STCB32 is a transaction at width 32. -/
theorem stcb64Result : Obligations.Stcb64Result :=
  ⟨fun _ _ => exec_of_w64 (o := .stcb) rfl, rfl,
    fun _ => State.answers_rows_w64 (o := .stcb) rfl rfl (by decide),
    fun _ => State.answers_w32 (o := .stcb) rfl rfl _⟩

/-- Settles O9: `ilcb` at width 32. -/
theorem ilcb32Result : Obligations.Ilcb32Result :=
  ⟨fun _ _ => exec_of_w32 (o := .ilcb) rfl, rfl,
    fun _ => State.answers_rows_w32 (o := .ilcb) rfl rfl (by decide)⟩

/-- Settles O10: `ilcb` at width 64; the comparison with ILCB32 is a transaction at width 32. -/
theorem ilcb64Result : Obligations.Ilcb64Result :=
  ⟨fun _ _ => exec_of_w64 (o := .ilcb) rfl, rfl,
    fun _ => State.answers_rows_w64 (o := .ilcb) rfl rfl (by decide),
    fun _ => State.answers_w32 (o := .ilcb) rfl rfl _⟩

end Sys2Proof.Machine
end

section
/-! The results of the extension's two instructions (R92, R93). The core's lemmas on the transactions of an operation apply
to the sixth as they stand; what they ask of the build is `EXT_ILSC` = 1. -/

namespace Sys2Proof.Machine

/-- The extension's operation is built exactly with `EXT_ILSC` = 1 (R51). -/
theorem Operation.builtIn_ilsc {cfg : Config} : Operation.ilsc.builtIn cfg = true ↔ cfg.extIlsc = true := Iff.rfl

/-- Settles O11: `ilsc` at width 32, which the hypothesis on the build makes an operation of it. -/
theorem ilsc32Result : Obligations.Ilsc32Result :=
  ⟨fun _ _ hext => exec_of_w32 (Operation.builtIn_ilsc.2 hext), rfl,
    fun _ hext => State.answers_rows_w32 rfl (Operation.builtIn_ilsc.2 hext) (by decide)⟩

/-- Settles O12: `ilsc` at width 64, which the hypothesis on the build makes an operation of it. -/
theorem ilsc64Result : Obligations.Ilsc64Result :=
  ⟨fun _ _ hext => exec_of_w64 (Operation.builtIn_ilsc.2 hext), rfl,
    fun _ hext => State.answers_rows_w64 rfl (Operation.builtIn_ilsc.2 hext) (by decide)⟩

end Sys2Proof.Machine
end

section
/-! PROOFS of the statements of 60_exceptions.md (O27, O26). The illegal response belongs to the commands of rule R102 alone,
in `bp` and so in a step and in a transaction. -/

namespace Sys2Proof.Machine

/-- A step faults exactly where the block's response is illegal (R103). -/
theorem State.outcomeOf_eq_fault {s : State} {p : Response} :
    s.outcomeOf p = .fault .illegalCommand ↔ p = .illegal := by
  cases p <;> simp

/-- The cause of `IllegalCommand` is the command alone: `x` is not examined (R102). -/
theorem bp_eq_illegal {cfg : Config} {cmd : BitVec cmdlen} {x : BitVec xlen} :
    bp cfg cmd x = .illegal ↔ isIllegal cfg cmd := by
  refine ⟨fun h => ?_, fun h => bp_of_isIllegal h x⟩
  rw [← illBit_eq_one, ← responseIll_bp cfg cmd x, h, responseIll_illegal]

theorem step_present_eq_fault {s : State} {r : Request} :
    step (s.present r) = .fault .illegalCommand ↔ isIllegal s.cfg r.cmd := by
  rw [step_eq_outcomeOf_bp (s.present_request r), State.outcomeOf_eq_fault, State.present_cfg, bp_eq_illegal]

theorem State.serve_eq_illegal {s : State} {r : Request} :
    (s.serve r).1 = some .illegal ↔ isIllegal s.cfg r.cmd := by
  rw [State.serve_eq, Option.some_inj, bp_eq_illegal]

/-- A transaction leaves no trace in the session that follows it (R107). -/
theorem session_serve (s : State) (r : Request) (later : List (Requester × Request)) :
    session (s.serve r).2 later = session s later := by
  rw [session_eq_map_deliver (s.serve_cfg r), session_eq_map_deliver rfl]

/-- With `ill` = 1 any 64 bits may be driven on `y` (R103). -/
theorem responseAllows_illegal {ill : BitVec 1} {y : BitVec xlen} :
    responseAllows .illegal ill y = true ↔ ill = 1#1 :=
  beq_iff_eq

/-- Settles O27: cause and effect by `bp`'s illegal response; that no later transaction is changed holds of every request,
an illegal one among them. -/
theorem illegalCommandEffect : Obligations.IllegalCommandEffect :=
  ⟨fun _ _ => ⟨step_present_eq_fault, State.serve_eq_illegal⟩, fun s r _ => session_serve s r, responseY_illegal,
    fun _ _ => responseAllows_illegal⟩

/-- Every build has every core instruction (R2). -/
theorem wf_of_isCore {i : Instr} (hi : isCore i = true) (cfg : Config) : i.wf cfg = true :=
  builtIn_core cfg (bne_iff_ne.1 hi)

/-- Settles O26: a core instruction is built in every configuration, and a built instruction answers with its value. -/
theorem coreInstructionsNeverRaise : Obligations.CoreInstructionsNeverRaise :=
  fun _ s _ hi hr => ⟨exec_built hr (wf_of_isCore hi s.cfg), responseIll_result _⟩

end Sys2Proof.Machine
end

section
/-! PROOFS of the statements of 30_encoding.md on the written form and on words of the table (O19, O20, O17, O18, O34). A
written request's literal stands on `x` as its own value, and the operand that a line keeps of `x` is the selected one; its
text is read back digit by digit. -/

namespace Sys2Proof

theorem decodeCmd_encodeCmd (i : Instr) : decodeCmd (encodeCmd i) = .ok i :=
  decodeCmd_eq_ok_iff.2 rfl

/-! A written request and the request it assembles to (R54). -/

theorem Width.bits_le_xlen (w : Width) : w.bits ≤ xlen := by
  cases w <;> decide

theorem Written.wf_iff {l : Written} : l.wf = true ↔ l.operand < 2 ^ l.instr.width.bits :=
  decide_eq_true_iff

theorem Written.assemble_of_wf {l : Written} (h : l.wf = true) :
    l.assemble = some ⟨encodeCmd l.instr, BitVec.ofNat xlen l.operand⟩ :=
  if_pos h

theorem Written.assemble_of_not_wf {l : Written} (h : l.wf = false) : l.assemble = none := by
  simp [Written.assemble, h]

/-- A literal that fits its width is the value on `x`, so zeros stand above a 32-bit one. -/
theorem Written.toNat_ofNat_operand {l : Written} (h : l.wf = true) :
    (BitVec.ofNat xlen l.operand).toNat = l.operand := by
  have hle : 2 ^ l.instr.width.bits ≤ 2 ^ xlen := Nat.pow_le_pow_right two_pos l.instr.width.bits_le_xlen
  rw [BitVec.toNat_ofNat, Nat.mod_eq_of_lt ((Written.wf_iff.1 h).trans_le hle)]

theorem Request.disassemble_eq_ok {r : Request} {l : Written} :
    r.disassemble = .ok l ↔ r.cmd = encodeCmd l.instr ∧ l.operand = r.x.toNat % 2 ^ l.instr.width.bits := by
  obtain ⟨i, n⟩ := l
  cases hd : decodeCmd r.cmd with
  | error e =>
    have hne : r.cmd ≠ encodeCmd i := fun h => by simp [h, decodeCmd_encodeCmd] at hd
    simp [Request.disassemble, hd, hne]
  | ok j =>
    rw [← decodeCmd_eq_ok_iff (i := i), hd]
    simp only [Request.disassemble, hd, Except.ok.injEq, Written.mk.injEq]
    constructor
    · rintro ⟨rfl, rfl⟩
      exact ⟨rfl, rfl⟩
    · rintro ⟨rfl, rfl⟩
      exact ⟨rfl, rfl⟩

namespace Machine

/-- Operand selection reads `x` modulo `2^W` (R20). -/
theorem toNat_selectOperand (w : Width) (x : BitVec xlen) : (selectOperand w x).toNat = x.toNat % 2 ^ w.bits := by
  cases w with
  | w32 => exact BitVec.extractLsb'_toNat 0 32 x
  | w64 => exact (Nat.mod_eq_of_lt x.isLt).symm

/-- Settles O19: a literal that fits is the value on `x`, and the literal read from `x` is its selected operand. -/
theorem writtenRequestRoundTrip : Obligations.WrittenRequestRoundTrip := by
  refine ⟨fun l hl => ?_, fun l hl => Written.assemble_of_not_wf hl, fun r l hrl => ?_⟩
  · have hx := Written.toNat_ofNat_operand hl
    refine ⟨_, Written.assemble_of_wf hl, rfl, hx, Request.disassemble_eq_ok.2 ⟨rfl, ?_⟩⟩
    rw [hx, Nat.mod_eq_of_lt (Written.wf_iff.1 hl)]
  · obtain ⟨hcmd, hop⟩ := Request.disassemble_eq_ok.1 hrl
    have hwf : l.wf = true := Written.wf_iff.2 (hop ▸ Nat.mod_lt _ (Nat.two_pow_pos _))
    refine ⟨hwf, _, Written.assemble_of_wf hwf, hcmd.symm, BitVec.eq_of_toNat_eq ?_⟩
    rw [toNat_selectOperand, Written.toNat_ofNat_operand hwf, toNat_selectOperand, hop, Nat.mod_mod]

/-! The text of a written request, digit by digit (R54). -/

/-- A capital hexadecimal digit reads as its value and is no digit separator. -/
theorem hexDigit_spec : ∀ d < 16, digitValue (hexDigit d) = some d ∧ hexDigit d ≠ '_' := by
  decide

theorem length_hexDigits (k n : Nat) (acc : List Char) : (hexDigits k n acc).length = k + acc.length := by
  induction k generalizing n acc with
  | zero => simp [hexDigits]
  | succ k ih => rw [hexDigits, ih, List.length_cons]; omega

theorem ne_underscore_of_mem_hexDigits {k n : Nat} {acc : List Char} (hacc : ∀ c ∈ acc, c ≠ '_') :
    ∀ c ∈ hexDigits k n acc, c ≠ '_' := by
  induction k generalizing n acc with
  | zero => exact hacc
  | succ k ih => exact ih (List.forall_mem_cons.2 ⟨(hexDigit_spec _ (Nat.mod_lt n (by decide))).2, hacc⟩)

/-- Reading the `k` low digits of a number brings its residue modulo `16^k` in after the digits read before. -/
theorem readDigits_hexDigits (k n a : Nat) (acc : List Char) :
    readDigits 16 (hexDigits k n acc) a = readDigits 16 acc (a * 16 ^ k + n % 16 ^ k) := by
  induction k generalizing n acc with
  | zero => simp [hexDigits, Nat.mod_one]
  | succ k ih =>
    have hlt : n % 16 < 16 := Nat.mod_lt n (by decide)
    have hval : (a * 16 ^ k + n / 16 % 16 ^ k) * 16 + n % 16 = a * 16 ^ (k + 1) + n % 16 ^ (k + 1) := by
      rw [pow_succ', Nat.mod_mul]
      ring
    rw [hexDigits, ih, readDigits, (hexDigit_spec _ hlt).1]
    simp only [hlt, ↓reduceIte, hval]

theorem pow_hexDigits (w : Width) : 16 ^ (w.bits / 4) = 2 ^ w.bits := by
  cases w <;> rfl

/-- The operand of a written request in hexadecimal at full width. -/
def fullWidthHex (w : Width) (n : Nat) : List Char := '0' :: 'x' :: hexDigits (w.bits / 4) n []

theorem readLiteral_fullWidthHex {w : Width} {n : Nat} (hn : n < 2 ^ w.bits) :
    readLiteral w (fullWidthHex w n) = some n := by
  have hfilter : (fullWidthHex w n).filter (fun c => c != '_') = fullWidthHex w n := by
    have hdigits := ne_underscore_of_mem_hexDigits (k := w.bits / 4) (n := n) (acc := []) (by simp)
    simpa [fullWidthHex] using hdigits
  have hlen : (hexDigits (w.bits / 4) n []).length = w.bits / 4 := length_hexDigits _ _ _
  rw [readLiteral, hfilter]
  simp only [fullWidthHex, hlen, ↓reduceIte, readDigits_hexDigits, pow_hexDigits, Nat.zero_mul, Nat.zero_add,
    Nat.mod_eq_of_lt hn, readDigits]

theorem instrOfMnemonic_mnemonicOf (i : Instr) : instrOfMnemonic (mnemonicOf i) = some i := by
  cases i <;> decide

theorem ne_space_of_mem_mnemonicOf (i : Instr) : ∀ c ∈ (mnemonicOf i).toList, (c != ' ') = true := by
  cases i <;> simp [mnemonicOf]

theorem toList_showWritten (l : Written) :
    (showWritten l).toList =
      (mnemonicOf l.instr).toList ++ ' ' :: fullWidthHex l.instr.width l.operand := by
  simp [showWritten, fullWidthHex]

/-- Settles O20: the text splits at its one space into the mnemonic and the literal, and each reads back. -/
theorem writtenTextRoundTrip : Obligations.WrittenTextRoundTrip := by
  intro l hl
  have hname : (showWritten l).toList.takeWhile (fun c => c != ' ') = (mnemonicOf l.instr).toList := by
    rw [toList_showWritten, List.takeWhile_append_of_pos (ne_space_of_mem_mnemonicOf _)]
    simp
  have hlit : (showWritten l).toList.dropWhile (fun c => c != ' ') =
      ' ' :: fullWidthHex l.instr.width l.operand := by
    rw [toList_showWritten, List.dropWhile_append_of_pos (ne_space_of_mem_mnemonicOf _)]
    simp
  simp only [readWritten, hname, hlit, String.ofList_toList, instrOfMnemonic_mnemonicOf,
    readLiteral_fullWidthHex (Written.wf_iff.1 hl), hl, ↓reduceIte]

/-- Settles O17: the encoder is the decoder's inverse. -/
theorem encodeOfDecodedCommand : Obligations.EncodeOfDecodedCommand :=
  fun _ _ h => (decodeCmd_eq_ok_iff.1 h).symm

/-- Settles O18: the decoder evaluated at each sample. -/
theorem sampleCommandsDecode : Obligations.SampleCommandsDecode :=
  ⟨rfl, rfl, rfl, rfl, rfl, rfl⟩

end Machine

/-! A word of the table on the port `cmd` (log entries 5, 6). -/

/-- Two numbers in range are a request of these two values. -/
theorem requestOfNats_of_lt {c n : Nat} (hc : c < 2 ^ cmdlen) (hn : n < 2 ^ xlen) :
    requestOfNats c n = some ⟨BitVec.ofNat cmdlen c, BitVec.ofNat xlen n⟩ := by
  simp [requestOfNats, requestWf, hc, hn]

theorem requestOfNats_of_ge {c : Nat} (hc : 2 ^ cmdlen ≤ c) (n : Nat) : requestOfNats c n = none := by
  simp [requestOfNats, requestWf, hc.not_gt]

/-- The words that the table decoder reads: the commands of the instructions, with no bit above bit 3. -/
theorem decodeTableWord_eq_some {nbits w : Nat} {i : Instr} :
    decodeTableWord nbits w = some i ↔ w < 2 ^ cmdlen ∧ BitVec.ofNat cmdlen w = encodeCmd i := by
  by_cases hw : w < 2 ^ cmdlen
  · rw [← decodeCmd_eq_ok_iff]
    simp only [decodeTableWord, requestOfNats_of_lt hw (Nat.two_pow_pos _), hw, true_and]
    cases decodeCmd (BitVec.ofNat cmdlen w) <;> simp
  · simp [decodeTableWord, requestOfNats_of_ge (Nat.le_of_not_lt hw), hw]

namespace Machine

/-- A word that fits on the port `cmd` is presented with the operand that is on the port `x`. -/
theorem State.withFetchWord_of_lt {w : Nat} (hw : w < 2 ^ cmdlen) (s : State) (nbits : Nat) :
    s.withFetchWord nbits w = s.present ⟨BitVec.ofNat cmdlen w, s.operandOnPort⟩ := by
  rw [State.withFetchWord, requestOfNats_of_lt hw s.operandOnPort.isLt, BitVec.ofNat_toNat, BitVec.setWidth_eq]

/-- Settles O34: the word is the instruction's command, and a step runs the instruction that its command decodes to. -/
theorem fetchWordRunsItsInstruction : Obligations.FetchWordRunsItsInstruction := by
  intro s w i h
  obtain ⟨hw, hcmd⟩ := decodeTableWord_eq_some.1 h
  rw [State.withFetchWord_of_lt hw, hcmd]
  exact ⟨rfl, rfl, step_decoded (s.present_request _) (decodeCmd_encodeCmd i)⟩

end Machine
end Sys2Proof
end

section
/-! PROOFS of the statements on steps and on the ports (O29, O32, O35, O37, O30, O31, O33, O36, O53). A step is refused, faults,
or settles the response ports; each of the three has one lemma, and the statements are read off them. -/

namespace Sys2Proof.Machine

/-! Settled ports: the states in which the response ports carry `bp` of the request ports (R120). -/

/-- Settling the ports makes them consistent. -/
theorem State.settle_consistent (s : State) : s.settle.Consistent := rfl

/-- On consistent ports there is nothing to settle. -/
theorem State.Consistent.settle_eq {s : State} (h : s.Consistent) : s.settle = s := by
  rw [State.settle, ← h]

/-- Driving the response of the request that is on the ports settles them. -/
theorem State.respond_bp {s : State} {r : Request} (hr : s.request = some r) :
    s.respond (bp s.cfg r.cmd r.x) = s.settle := by
  rw [State.settle, State.respond, hr]
  rfl

/-! The three outcomes of a step, by the request on the ports (60_exceptions.md section 5). -/

theorem step_of_isIllegal {s : State} {r : Request} (hr : s.request = some r) (h : isIllegal s.cfg r.cmd) :
    step s = .fault .illegalCommand := by
  rw [step_eq_outcomeOf_bp hr, bp_of_isIllegal h, State.outcomeOf_illegal]

theorem step_of_not_isIllegal {s : State} {r : Request} (hr : s.request = some r) (h : ¬ isIllegal s.cfg r.cmd) :
    step s = .next s.settle := by
  rw [step_eq_outcomeOf_bp hr, ← State.respond_bp hr]
  cases hp : bp s.cfg r.cmd r.x with
  | illegal => exact absurd (bp_eq_illegal.1 hp) h
  | result y => rfl

/-- All that a step can do. -/
theorem step_cases (s : State) :
    (s.request = none ∧ step s = .refused (.block .notARequest)) ∨
      (∃ r, s.request = some r ∧ isIllegal s.cfg r.cmd ∧ step s = .fault .illegalCommand) ∨
      ∃ r, s.request = some r ∧ ¬ isIllegal s.cfg r.cmd ∧ step s = .next s.settle := by
  cases hr : s.request with
  | none => exact .inl ⟨rfl, step_undriven hr⟩
  | some r =>
    by_cases h : isIllegal s.cfg r.cmd
    · exact .inr (.inl ⟨r, rfl, h, step_of_isIllegal hr h⟩)
    · exact .inr (.inr ⟨r, rfl, h, step_of_not_isIllegal hr h⟩)

theorem step_eq_refused {s : State} {e : Refusal} :
    step s = .refused e ↔ s.request = none ∧ e = .block .notARequest := by
  rcases step_cases s with ⟨hr, hs⟩ | ⟨r, hr, -, hs⟩ | ⟨r, hr, -, hs⟩
  · simp [hr, hs, eq_comm]
  · simp [hr, hs]
  · simp [hr, hs]

theorem step_eq_fault {s : State} {e : Fault} :
    step s = .fault e ↔ (∃ r, s.request = some r ∧ isIllegal s.cfg r.cmd) ∧ e = .illegalCommand := by
  rcases step_cases s with ⟨hr, hs⟩ | ⟨r, hr, h, hs⟩ | ⟨r, hr, h, hs⟩
  · simp [hr, hs]
  · simp [hr, hs, h]
  · simp [hr, hs, h]

/-- A step that answers settles the response ports and does nothing else. -/
theorem step_eq_next {s t : State} :
    step s = .next t ↔ (∃ r, s.request = some r ∧ ¬ isIllegal s.cfg r.cmd) ∧ t = s.settle := by
  rcases step_cases s with ⟨hr, hs⟩ | ⟨r, hr, h, hs⟩ | ⟨r, hr, h, hs⟩
  · simp [hr, hs]
  · simp [hr, hs, h]
  · simp [hr, hs, h, eq_comm]

/-- Settles O29: a step that answers settles the ports, and so does every operation of a host on them. -/
theorem stepKeepsPortsConsistent : Obligations.StepKeepsPortsConsistent := by
  refine ⟨fun s t _ h => ?_, fun s r => ?_⟩
  · rw [(step_eq_next.1 h).2]
    exact s.settle_consistent
  · rw [State.serve_eq]
    exact ⟨State.settle_consistent _, State.settle_consistent _, s.settle_consistent, State.settle_consistent _,
      s.present_response r, s.present_response r⟩

/-- Settles O32: settled ports carry the same request, and settling them again changes nothing. -/
theorem repeatingARequestChangesNothing : Obligations.RepeatingARequestChangesNothing := by
  intro s t h
  obtain ⟨hlegal, rfl⟩ := step_eq_next.1 h
  exact step_eq_next.2 ⟨hlegal, s.settle_settle.symm⟩

/-! The meanings. -/

/-- All that a meaning can do when it answers a next state: it drives the value of the instruction's rule. -/
theorem exec_next {i : Instr} {s t : State} (h : exec i s = .next t) :
    ∃ r, s.request = some r ∧ t = s.respond (.result (valueOn i r.x)) := by
  rw [exec_eq_transact, hostOutcome_eq_next] at h
  obtain ⟨r, hr, -, ht⟩ := transact_next h
  exact ⟨r, hr, ht⟩

theorem exec_undriven {s : State} (hr : s.request = none) (i : Instr) :
    exec i s = .refused (.block .notARequest) := by
  rw [exec_eq_transact, transact_undriven hr, hostOutcome_refused]

/-- All that a meaning can do when it is refused: nobody drives the ports. -/
theorem exec_refused {i : Instr} {s : State} {e : Refusal} (h : exec i s = .refused e) :
    s.request = none ∧ e = .block .notARequest := by
  rw [exec_eq_transact, hostOutcome_eq_refused] at h
  obtain ⟨⟨⟩, ho, he⟩ := h
  exact ⟨transact_refused ho, he⟩

/-- A step is an outcome of the block: its reasons are those of rule R116. -/
theorem step_eq_hostOutcome (s : State) : ∃ o : BlockOutcome, step s = hostOutcome o := by
  rcases step_cases s with ⟨-, hs⟩ | ⟨r, -, -, hs⟩ | ⟨r, -, -, hs⟩
  · exact ⟨.refused .notARequest, hs⟩
  · exact ⟨.fault .illegalCommand, hs⟩
  · exact ⟨.next s.settle, hs⟩

/-- Settles O35: a meaning that answers drives the response ports with its instruction's value. -/
theorem instructionFrame : Obligations.InstructionFrame := by
  intro i s t h
  obtain ⟨r, hr, rfl⟩ := exec_next h
  exact ⟨s.respond_cfg _, s.respond_request _, r, hr, s.respond_response _⟩

/-- Settles O37: each outcome of a step has its one cause, and every reason is one of the block's. -/
theorem stepOutcomes : Obligations.StepOutcomes := by
  intro s
  refine ⟨?refused, ?fault, ?next, fun _ h => (step_eq_refused.1 h).2, fun _ h => (step_eq_fault.1 h).2,
    fun i hr => exec_undriven hr i, fun _ _ h => exec_refused h, step_eq_hostOutcome s,
    fun i => ⟨_, exec_eq_transact i s⟩⟩
  case refused => exact ⟨fun ⟨_, h⟩ => (step_eq_refused.1 h).1, fun hr => ⟨_, step_undriven hr⟩⟩
  case fault => exact ⟨fun ⟨_, h⟩ => (step_eq_fault.1 h).1, fun ⟨_, hr, hill⟩ => ⟨_, step_of_isIllegal hr hill⟩⟩
  case next => exact ⟨fun ⟨_, h⟩ => (step_eq_next.1 h).1, fun ⟨_, hr, hleg⟩ => ⟨_, step_of_not_isIllegal hr hleg⟩⟩

/-! The state after reset, and what a step reads. -/

/-- Settles O30: nothing is on the ports at reset. -/
theorem resetPortsConsistent : Obligations.ResetPortsConsistent := rfl

/-- Of the state, a transaction reads the configuration alone (R23). -/
theorem State.serve_congr {s s' : State} (hcfg : s'.cfg = s.cfg) (r : Request) : (s'.serve r).1 = (s.serve r).1 := by
  rw [State.serve_eq, State.serve_eq, hcfg]

/-- Settles O31: nobody drives the ports at reset, and a response depends on the configuration alone. -/
theorem resetState : Obligations.ResetState :=
  ⟨thisHardware_extIlsc, State.reset_request, State.reset_response, step_undriven State.reset_request,
    fun _ r hcfg => State.serve_congr hcfg.symm r⟩

/-- Settles O33: the decoder's instruction is the one that a step dispatches to. -/
theorem stepRunsDecodedInstruction : Obligations.StepRunsDecodedInstruction :=
  fun _ _ _ hr hd => step_decoded hr hd

/-- Settles O53: a reset of the enclosing system settles the ports, and a response depends on the configuration alone. -/
theorem portsAnswerThroughSystemReset : Obligations.PortsAnswerThroughSystemReset := by
  refine ⟨fun s h => h.settle_eq, fun s r => ⟨State.serve_congr s.systemReset_cfg r, s.systemReset_cfg, fun hr => ?_⟩⟩
  rw [State.systemReset_response, hr, Option.map_some]

/-! The old response is written over and never read (R17). -/

section
variable {s s' : State} (hcfg : s.cfg = s'.cfg) (hreq : s.request = s'.request)
include hcfg hreq

theorem State.respond_congr (p : Response) : s.respond p = s'.respond p := by
  rw [State.respond, State.respond, hcfg, hreq]

theorem transact_congr (o : Operation) (w : Width) (f : Word w.bits → Word w.bits) :
    transact o w f s = transact o w f s' := by
  cases hr : s'.request with
  | none => rw [transact_undriven hr, transact_undriven (hreq.trans hr)]
  | some r =>
    have hr' := hreq.trans hr
    cases ho : o.builtIn s'.cfg with
    | false => rw [transact_unbuilt hr ho, transact_unbuilt hr' (hcfg ▸ ho)]
    | true => rw [transact_built hr ho, transact_built hr' (hcfg ▸ ho), State.respond_congr hcfg hreq]

theorem exec_congr (i : Instr) : exec i s = exec i s' := by
  rw [exec_eq_transact, exec_eq_transact, transact_congr hcfg hreq]

theorem step_congr : step s = step s' := by
  cases hr : s'.request with
  | none => rw [step_undriven hr, step_undriven (hreq.trans hr)]
  | some r =>
    have hr' := hreq.trans hr
    cases hd : decodeCmd r.cmd with
    | error e => rw [step_reserved hr hd, step_reserved hr' hd]
    | ok i => rw [step_decoded hr hd, step_decoded hr' hd, exec_congr hcfg hreq]

end

/-- Settles O36: a step and a meaning read the configuration and the request alone. -/
theorem earlierResponseNeverMatters : Obligations.EarlierResponseNeverMatters :=
  fun _ _ hcfg hreq => ⟨step_congr hcfg hreq, exec_congr hcfg hreq⟩

end Sys2Proof.Machine
end

section
/-! PROOFS of the statements on the six functions (O38 to O44, O50 to O52). First the words of one 1 bit and the low masks,
the sixth function and the dualities, each at any width; then the number of 1 bits as the size of the set of their positions;
then the low word of a 64-bit function. The statements are assembled from these. -/

namespace Sys2Proof.Laws

open Sys2Proof.Machine

section
variable {W : Nat}

/-! The lowest set bit as a power of two, and the low masks. -/

theorem lowestSetBit_eq_twoPow (v : Word W) : lowestSetBit v = BitVec.twoPow W (trailingZeros v) := by
  refine BitVec.eq_of_getLsbD_eq fun i hi => ?_
  rw [getLsbD_lowestSetBit, BitVec.getLsbD_twoPow]
  by_cases h : i = trailingZeros v
  · simp [← h, hi]
  · simp [h, Ne.symm h]

theorem trailingZeros_twoPow {k : Nat} (hk : k < W) : trailingZeros (BitVec.twoPow W k) = k := by
  refine trailingZeros_unique ?_ fun j hj => ?_
  · simp [hk]
  · simp [BitVec.getLsbD_twoPow, hj.ne']

theorem trailingOnes_lowmask {n : Nat} (hn : n ≤ W) : trailingOnes (lowmask W n) = n := by
  rcases hn.lt_or_eq with hlt | rfl
  · refine trailingZeros_unique ?_ fun j hj => ?_
    · rw [BitVec.getLsbD_not, getLsbD_lowmask]
      simp [hlt]
    · rw [BitVec.getLsbD_not, getLsbD_lowmask]
      simp [hj, hj.trans hlt]
  · rw [lowmask_width, trailingOnes_eq_width]

theorem trailingOnes_lt {v : Word W} (hv : v ≠ Word.ones W) : trailingOnes v < W :=
  (trailingOnes_le v).lt_of_ne (mt trailingOnes_eq_width.1 hv)

theorem ilcb_eq_twoPow (v : Word W) : ilcb v = BitVec.twoPow W (trailingOnes v) := by
  rw [ilcb_eq_lowestSetBit_not, lowestSetBit_eq_twoPow, trailingOnes]

/-! The zeros of the functions, and their operands with a given bit 0. -/

/-- `clsb` is zero exactly at zero and at the powers of two (R66). -/
theorem clsb_eq_zero_iff {v : Word W} : clsb v = 0#W ↔ v = 0#W ∨ ∃ k < W, v = BitVec.twoPow W k := by
  rw [clsb_eq_xor_lowestSetBit, BitVec.xor_eq_zero_iff]
  constructor
  · intro h
    refine or_iff_not_imp_left.2 fun hv => ⟨trailingZeros v, (trailingZeros_spec hv).1, ?_⟩
    rwa [← lowestSetBit_eq_twoPow]
  · rintro (rfl | ⟨k, hk, rfl⟩)
    · exact (lowestSetBit_zero W).symm
    · rw [lowestSetBit_eq_twoPow, trailingZeros_twoPow hk]

/-- `ctsb` is zero exactly at the low masks (R72). -/
theorem ctsb_eq_zero_iff {v : Word W} : ctsb v = 0#W ↔ ∃ n ≤ W, v = lowmask W n := by
  rw [ctsb_eq_xor_lowmask, BitVec.xor_eq_zero_iff]
  constructor
  · exact fun h => ⟨trailingOnes v, trailingOnes_le v, h⟩
  · rintro ⟨n, hn, rfl⟩
    rw [trailingOnes_lowmask hn]

theorem trailingOnes_eq_zero {v : Word W} (h0 : v.getLsbD 0 = false) : trailingOnes v = 0 := by
  by_contra h
  simp [getLsbD_lt_trailingOnes v (Nat.pos_of_ne_zero h)] at h0

theorem ctsb_eq_self {v : Word W} (h0 : v.getLsbD 0 = false) : ctsb v = v := by
  rw [ctsb_eq_xor_lowmask, trailingOnes_eq_zero h0, lowmask_zero, BitVec.xor_zero]

theorem stcb_eq_self {v : Word W} (h0 : v.getLsbD 0 = true) : stcb v = v := by
  have hz : trailingZeros v = 0 := trailingZeros_unique h0 (by simp)
  rw [stcb_eq_or_lowmask, hz, lowmask_zero, BitVec.or_zero]

theorem ilcb_eq_one {v : Word W} (h0 : v.getLsbD 0 = false) : ilcb v = 1#W := by
  rw [ilcb_eq_twoPow, trailingOnes_eq_zero h0, BitVec.twoPow_zero]

/-- Bit 0 of `ctsb` is 0 (R72). -/
theorem getLsbD_zero_ctsb (v : Word W) : (ctsb v).getLsbD 0 = false := by
  rcases W.eq_zero_or_pos with rfl | hW
  · exact BitVec.getLsbD_of_ge _ _ le_rfl
  · rw [getLsbD_ctsb v hW]
    split
    · rfl
    · next h => exact Nat.eq_zero_of_not_pos h ▸ getLsbD_trailingOnes v

/-- Bit 0 of `stcb` is 1 (R75). -/
theorem getLsbD_zero_stcb (hW : 0 < W) (v : Word W) : (stcb v).getLsbD 0 = true := by
  rw [getLsbD_stcb v hW]
  split
  · rfl
  · next h =>
    have hz : trailingZeros v = 0 := Nat.eq_zero_of_not_pos h
    exact hz ▸ getLsbD_trailingZeros v (hz ▸ hW)

/-- `ctsb` clears the low mask of the trailing ones. -/
theorem ctsb_eq_and_not_lowmask (v : Word W) : ctsb v = v &&& ~~~(lowmask W (trailingOnes v)) := by
  refine BitVec.eq_of_getLsbD_eq fun i hi => ?_
  rw [getLsbD_ctsb v hi, BitVec.getLsbD_and, BitVec.getLsbD_not, getLsbD_lowmask]
  by_cases h : i < trailingOnes v <;> simp [h, hi]

/-! The dualities (R86) and the sixth function. -/

theorem stcb_eq_not_ctsb_not (v : Word W) : stcb v = ~~~(ctsb (~~~v)) := by
  rw [ctsb_eq_not_stcb_not, BitVec.not_not, BitVec.not_not]

theorem xor_or_self (u v : Word W) : v ^^^ (v ||| u) = ~~~v &&& u := by
  ext i hi
  cases hv : v[i] <;> simp [hv]

theorem not_and_or_self (u v : Word W) : ~~~v &&& (v ||| u) = ~~~v &&& u := by
  ext i hi
  cases hv : v[i] <;> simp [hv]

theorem ilcb_eq_xor_slcb (v : Word W) : ilcb v = v ^^^ slcb v := (xor_or_self v.inc v).symm

theorem ilcb_eq_not_and_slcb (v : Word W) : ilcb v = ~~~v &&& slcb v := (not_and_or_self v.inc v).symm

theorem lowestSetBit_eq_xor_clsb (v : Word W) : lowestSetBit v = v ^^^ clsb v := by
  rw [clsb_eq_xor_lowestSetBit, ← BitVec.xor_assoc, BitVec.xor_self, BitVec.zero_xor]

/-- The lowest set bit is what `ilcb` isolates in the complement. -/
theorem ilcb_not_eq_lowestSetBit (v : Word W) : ilcb (~~~v) = lowestSetBit v := by
  rw [ilcb_eq_lowestSetBit_not, BitVec.not_not]

/-- The glossary's mask `x & -x` (00_scope.md section 8). -/
theorem and_neg_eq_lowestSetBit (v : Word W) : v &&& (0#W - v) = lowestSetBit v := by
  rw [← ilcb_not_eq_lowestSetBit, ilcb, BitVec.not_not, Word.inc, ← BitVec.neg_eq_not_add, BitVec.zero_sub]

theorem dualitiesHold_eq_true (v : Word W) : dualitiesHold v = true := by
  simp only [dualitiesHold, Bool.and_eq_true, beq_iff_eq]
  exact ⟨⟨⟨⟨slcb_eq_not_clsb_not v, stcb_eq_not_ctsb_not v⟩, ilcb_eq_xor_slcb v⟩, ilcb_eq_not_and_slcb v⟩,
    (and_neg_eq_lowestSetBit v).trans (lowestSetBit_eq_xor_clsb v)⟩

/-- `ilsc` is the complement of the lowest set bit (R91), and so all ones at zero (R94). -/
theorem ilsc_eq_not_lowestSetBit (v : Word W) : ilsc v = ~~~(lowestSetBit v) := by
  rw [← ilcb_not_eq_lowestSetBit, ilcb, BitVec.not_and, BitVec.not_not, not_inc, BitVec.not_not, ilsc]

theorem getLsbD_ilsc {i : Nat} (v : Word W) (hi : i < W) :
    (ilsc v).getLsbD i = if i = trailingZeros v then false else true := by
  rw [ilsc_eq_not_lowestSetBit, BitVec.getLsbD_not, getLsbD_lowestSetBit]
  by_cases h : i = trailingZeros v <;> simp [h, hi]

/-! The number of 1 bits, as the size of the set of their positions. -/

/-- The positions of the 1 bits of a word. -/
def onePositions (v : Word W) : Finset Nat := (Finset.range W).filter (fun i => v.getLsbD i = true)

theorem mem_onePositions {v : Word W} {i : Nat} : i ∈ onePositions v ↔ i < W ∧ v.getLsbD i = true := by
  simp [onePositions]

theorem countOnes_eq_card (v : Word W) : countOnes v = (onePositions v).card := by
  simp [countOnes, onePositions, Finset.card, Multiset.range, List.countP_eq_length_filter]

theorem onePositions_clsb (v : Word W) : onePositions (clsb v) = (onePositions v).erase (trailingZeros v) := by
  ext i
  rw [Finset.mem_erase, mem_onePositions, mem_onePositions, and_left_comm]
  refine and_congr_right fun hi => ?_
  rw [getLsbD_clsb v hi]
  by_cases h : i = trailingZeros v <;> simp [h]

/-- A nonzero word loses one 1 bit by `clsb` (R66). -/
theorem countOnes_clsb_add_one {v : Word W} (hv : v ≠ 0#W) : countOnes (clsb v) + 1 = countOnes v := by
  obtain ⟨hlt, hbit, -⟩ := trailingZeros_spec hv
  rw [countOnes_eq_card, countOnes_eq_card, onePositions_clsb,
    Finset.card_erase_add_one (mem_onePositions.2 ⟨hlt, hbit⟩)]

theorem countOnes_zero : countOnes (0#W) = 0 := by
  simp [countOnes]

theorem countOnes_clsb (v : Word W) : countOnes (clsb v) = countOnes v - 1 := by
  by_cases hv : v = 0#W
  · rw [hv, clsb_eq_zero_iff.2 (.inl rfl), countOnes_zero]
  · have h := countOnes_clsb_add_one hv
    omega

/-- The complement has the other positions. -/
theorem countOnes_add_countOnes_not (v : Word W) : countOnes v + countOnes (~~~v) = W := by
  have hnot : countOnes (~~~v) = (List.range W).countP (fun i => !v.getLsbD i) :=
    List.countP_congr fun i hi => by rw [BitVec.getLsbD_not]; simp [List.mem_range.1 hi]
  have hlen := List.length_eq_countP_add_countP (fun i => v.getLsbD i) (l := List.range W)
  rw [hnot]
  simpa [countOnes] using hlen.symm

/-- One 1 bit more, as far as there is room, since `clsb` takes one from the complement. -/
theorem countOnes_slcb (v : Word W) : countOnes (slcb v) = min W (countOnes v + 1) := by
  have hv := countOnes_add_countOnes_not v
  have hslcb := countOnes_add_countOnes_not (clsb (~~~v))
  rw [countOnes_clsb] at hslcb
  rw [slcb_eq_not_clsb_not]
  omega

/-! `ilcb` twice, and how many 1 bits it has. -/

theorem ilcb_ones : ilcb (Word.ones W) = 0#W := by
  rw [ilcb_eq_lowestSetBit_not, BitVec.not_allOnes, lowestSetBit_zero]

/-- `ilcb` isolates at most one bit, so nothing is left without it (R78). -/
theorem countOnes_ilcb_le_one (v : Word W) : countOnes (ilcb v) ≤ 1 := by
  have hzero : clsb (ilcb v) = 0#W := by
    by_cases hv : v = Word.ones W
    · exact clsb_eq_zero_iff.2 (.inl (hv ▸ ilcb_ones))
    · exact clsb_eq_zero_iff.2 (.inr ⟨_, trailingOnes_lt hv, ilcb_eq_twoPow v⟩)
  have hcount := countOnes_clsb (ilcb v)
  rw [hzero, countOnes_zero] at hcount
  omega

theorem ilcb_one (hW : 0 < W) : ilcb (1#W) = 2#W := by
  have hone : lowmask W 1 = 1#W := rfl
  rw [ilcb_eq_twoPow, ← hone, trailingOnes_lowmask hW]
  exact BitVec.eq_of_toNat_eq (by simp [BitVec.toNat_twoPow])

/-- Isolating twice gives 1, but for 1 itself: every other power of two has bit 0 clear. -/
theorem ilcb_ilcb (hW : 0 < W) (v : Word W) : ilcb (ilcb v) = if ilcb v = 1#W then 2#W else 1#W := by
  split
  · next h => rw [h, ilcb_one hW]
  · next h =>
    refine ilcb_eq_one ?_
    have hne : 0 ≠ trailingOnes v := fun h0 => h (by rw [ilcb_eq_twoPow, ← h0, BitVec.twoPow_zero])
    rw [getLsbD_ilcb v hW]
    exact decide_eq_false hne

end

/-! The low word of a 64-bit function (40_bit_primitives.md section 7). -/

/-- The low word of an increment is the increment of the low word: no carry comes from above. -/
theorem setWidth_inc {W V : Nat} (h : V ≤ W) (v : Word W) : v.inc.setWidth V = Word.inc (v.setWidth V) := by
  rw [Word.inc, BitVec.setWidth_add _ _ h, BitVec.setWidth_ofNat_of_le h, Word.inc]

theorem setWidth_dec {W V : Nat} (h : V ≤ W) (v : Word W) : v.dec.setWidth V = Word.dec (v.setWidth V) := by
  rw [dec_eq_not_inc_not, dec_eq_not_inc_not, BitVec.setWidth_not h, setWidth_inc h, BitVec.setWidth_not h]

/-- Each function's low word is the function of the low word. -/
theorem setWidth_applyOperation {W V : Nat} (h : V ≤ W) (o : Operation) (v : Word W) :
    (applyOperation o v).setWidth V = applyOperation o (v.setWidth V) := by
  cases o with
  | clsb => exact BitVec.setWidth_and.trans (by rw [setWidth_dec h]; rfl)
  | slcb => exact BitVec.setWidth_or.trans (by rw [setWidth_inc h]; rfl)
  | ctsb => exact BitVec.setWidth_and.trans (by rw [setWidth_inc h]; rfl)
  | stcb => exact BitVec.setWidth_or.trans (by rw [setWidth_dec h]; rfl)
  | ilcb => exact BitVec.setWidth_and.trans (by rw [setWidth_inc h, BitVec.setWidth_not h]; rfl)
  | ilsc => exact BitVec.setWidth_or.trans (by rw [setWidth_dec h, BitVec.setWidth_not h]; rfl)

/-! The two readings of a word (R5, R60). -/

theorem inc_eq_ofInt {W : Nat} {v : Word W} {n : Int} (h : BitVec.ofInt W n = v) :
    v.inc = BitVec.ofInt W (n + 1) := by
  rw [BitVec.ofInt_add, h]
  rfl

theorem dec_eq_ofInt {W : Nat} {v : Word W} {n : Int} (h : BitVec.ofInt W n = v) :
    v.dec = BitVec.ofInt W (n - 1) := by
  rw [Int.sub_eq_add_neg, BitVec.ofInt_add, h, BitVec.ofInt_neg]
  exact BitVec.sub_eq_add_neg v 1#W

end Sys2Proof.Laws

namespace Sys2Proof

theorem Width.bits_pos (w : Width) : 0 < w.bits := by
  cases w <;> decide

end Sys2Proof

namespace Sys2Proof.Machine

open Sys2Proof.Laws

/-- Settles O38: either reading of a word gives the word back, and the arithmetic is that of the integers. -/
theorem signedAndUnsignedReadingsAgree : Obligations.SignedAndUnsignedReadingsAgree := by
  intro w v
  have hs : BitVec.ofInt w.bits (Word.signedValue v) = v := by
    rw [Word.signedValue_eq_toInt, BitVec.ofInt_toInt]
  have hu : BitVec.ofInt w.bits (v.toNat : Int) = v := by
    rw [BitVec.ofInt_natCast, BitVec.ofNat_toNat, BitVec.setWidth_eq]
  exact ⟨hs, inc_eq_ofInt hs, inc_eq_ofInt hu, dec_eq_ofInt hs, dec_eq_ofInt hu⟩

/-- Settles O39: `clsb` clears the bit at `trailingZeros`. -/
theorem clsbBitByBit : Obligations.ClsbBitByBit :=
  fun _ v => ⟨clsb_eq_zero_iff.2 (.inl rfl), fun _ _ hi => getLsbD_clsb v hi, clsb_eq_zero_iff,
    countOnes_clsb_add_one⟩

/-- Settles O40: `slcb` sets the bit at `trailingOnes`. -/
theorem slcbBitByBit : Obligations.SlcbBitByBit := by
  refine fun w v => ⟨BitVec.allOnes_or, fun hv => ⟨trailingOnes_lt hv, fun i hi => getLsbD_slcb v hi⟩, ?_⟩
  cases w <;> decide

/-- Settles O41: `ctsb` clears the bits below `trailingOnes`. -/
theorem ctsbBitByBit : Obligations.CtsbBitByBit :=
  fun w v => ⟨fun _ hi => getLsbD_ctsb v hi, ctsb_eq_and_not_lowmask v, getLsbD_zero_ctsb v, ctsb_eq_self,
    fun hv => ctsb_eq_zero_iff.2 ⟨w.bits, le_rfl, hv.trans lowmask_width.symm⟩, ctsb_eq_zero_iff⟩

/-- Settles O42: `stcb` sets the bits below `trailingZeros`, and bit 0 is one of them or stands already. -/
theorem stcbBitByBit : Obligations.StcbBitByBit := by
  intro w v
  have hbit := getLsbD_zero_stcb w.bits_pos v
  refine ⟨fun i hi => getLsbD_stcb v hi, stcb_eq_or_lowmask v, hbit, fun h => ?_, stcb_eq_self, fun hv => ?_⟩
  · simp [h] at hbit
  · rw [hv, stcb_eq_or_lowmask, trailingZeros_zero, lowmask_width, BitVec.or_allOnes]

/-- Settles O43: `ilcb` is the power of two at `trailingOnes`. -/
theorem ilcbBitByBit : Obligations.IlcbBitByBit := by
  refine fun w v => ⟨fun hv => ⟨trailingOnes_lt hv, ?_⟩, fun hv => hv ▸ ilcb_ones, countOnes_ilcb_le_one v, ?_⟩
  · rw [ilcb_eq_twoPow, BitVec.toNat_twoPow_of_lt (trailingOnes_lt hv)]
  · cases w <;> decide

/-- Settles O44: `ilsc` is the complement of the lowest set bit, and zero has none. -/
theorem ilscBitByBit : Obligations.IlscBitByBit := by
  refine ⟨fun w v _ => ⟨ilsc_eq_not_lowestSetBit v, fun i hi => getLsbD_ilsc v hi⟩, fun w => ?_, fun w => ?_, by decide⟩
  · rw [ilsc_eq_not_lowestSetBit, lowestSetBit_zero, BitVec.not_zero]
  · cases w <;> decide

/-- Settles O50: the identities hold at any width. -/
theorem dualities : Obligations.Dualities :=
  fun _ v => ⟨slcb_eq_not_clsb_not v, stcb_eq_not_ctsb_not v, ilcb_eq_xor_slcb v, ilcb_eq_not_and_slcb v,
    lowestSetBit_eq_xor_clsb v, dualitiesHold_eq_true v⟩

theorem extractLsb'_applyOperation (o : Operation) (v : Word 64) :
    (applyOperation o v).extractLsb' 0 32 = applyOperation o (v.extractLsb' 0 32) := by
  have hle : 32 ≤ 64 := by decide
  rw [← BitVec.setWidth_eq_extractLsb' hle, ← BitVec.setWidth_eq_extractLsb' hle, setWidth_applyOperation hle]

/-- Settles O51: the low word of a 64-bit function is the 32-bit function of the low word, and the 32-bit instruction places
it below zeros. -/
theorem widthRelation : Obligations.WidthRelation := by
  refine ⟨extractLsb'_applyOperation, fun o x => ?_, by decide, by decide⟩
  rw [valueOn_w32 (Instr.width_of o .w32), valueOn_w64 (Instr.width_of o .w64), Instr.operation_of, Instr.operation_of]
  refine ⟨?_, BitVec.extractLsb'_append_eq_left, rfl⟩
  rw [extractLsb'_zeros_append, extractLsb'_applyOperation]

/-- Settles O52: `ctsb` and `stcb` leave bit 0 as they need it, and the others go on to the next bit. -/
theorem idempotence : Obligations.Idempotence := by
  intro w v
  have hctsb := getLsbD_zero_ctsb v
  have hstcb := getLsbD_zero_stcb w.bits_pos v
  refine ⟨ctsb_eq_self hctsb, stcb_eq_self hstcb, hctsb, hstcb, ?_, ?_, ilcb_ilcb w.bits_pos v⟩
  · rw [countOnes_clsb, countOnes_clsb, Nat.sub_sub]
  · rw [countOnes_slcb, countOnes_slcb]
    omega

end Sys2Proof.Machine
end
